-- ==== Sys2Proof/Word.lean ====
section
/-!
DEFINITION. The words the FrameCodec block works on (spec/00_scope.md R8, R9).
-/

namespace Sys2Proof

/-- A byte: an unsigned integer 0 to 255, 8 bits (R9). -/
abbrev Byte := BitVec 8

/-- A command word on the host port: operation code in bits 11:8, operand byte in bits 7:0 (R49). -/
abbrev CmdWord := BitVec 12

end Sys2Proof
end

