-- ==== Sys2Proof/Machine/Flags.lean ====
section
/-!
DEFINITION. The error causes, their status codes and their sticky flags (spec/60_exceptions.md R118,
spec/10_state.md R25), and the errors only the host layer reports (R123).
-/

namespace Sys2Proof.Machine

/-- The seven causes the block raises (R118). -/
inductive Cause where
  /-- InvalidParameterCount (R119) -/
  | ipc
  /-- ShortFrame (R120) -/
  | short
  /-- ChecksumMismatch (R121) -/
  | cksum
  /-- illegal order code (R122) -/
  | illord
  /-- operation out of sequence (R122) -/
  | seq
  /-- a seventh response byte (R122) -/
  | ovr
  /-- reserved operation code (R122) -/
  | illop
  deriving DecidableEq, Repr

/-- The status code of a cause, the column STAT of R118. -/
def Cause.code : Cause → BitVec 4
  | .ipc => 1
  | .short => 2
  | .cksum => 3
  | .illord => 4
  | .seq => 5
  | .ovr => 6
  | .illop => 7

/-- The bit of ERR a cause sets, R25: bit `code - 1`. -/
def Cause.bit : Cause → Nat
  | .ipc => 0
  | .short => 1
  | .cksum => 2
  | .illord => 3
  | .seq => 4
  | .ovr => 5
  | .illop => 6

/-- The flag of a cause as a byte of ERR. -/
def Cause.mask (c : Cause) : Byte := BitVec.twoPow 8 c.bit

/-- ERR with the flag of a cause set: flags accumulate by bitwise OR (R129). -/
def setFlag (err : Byte) (c : Cause) : Byte := err ||| c.mask

/-- What the host layer can report of something it issues (R118, R123; spec/44_commands.md R100, R110, R113). -/
inductive HostError where
  /-- an error of the block, passed on by the host; also `block ipc` for an operand outside 0 to 255 (R100) -/
  | block (c : Cause)
  /-- UnknownCommand: a CTRL. mnemonic that is none of the five (R110) -/
  | unknownCommand
  /-- TransportFailure, from T.write or T.read (R123) -/
  | transportFailure
  /-- an assembly error: no command word is produced (spec/30_encoding.md R61) -/
  | assemblyError
  /-- twelve bytes that are no request frame (R52, R57); the block can neither produce nor decode them -/
  | notARequestFrame
  deriving DecidableEq, Repr

/-- The code of a host error in the numbering of R118; the last two have none there. -/
def HostError.code : HostError → Option (BitVec 4)
  | .block c => some c.code
  | .unknownCommand => some 8
  | .transportFailure => some 9
  | .assemblyError => none
  | .notARequestFrame => none

end Sys2Proof.Machine
end

