-- ==== Sys2Proof/Machine/Frame.lean ====
section
/-!
DEFINITION. The three functions of the source (checksum, encodeRequest, decodeResponse) and the layouts of the two
wire frames (spec/00_scope.md R7, spec/40_checksum.md R64, spec/41_assembler.md R72, spec/42_parser.md R83,
spec/30_encoding.md R52 to R56).
-/

namespace Sys2Proof.Machine

/-- First header byte of both frame kinds (R7). -/
def hdr0 : Byte := 0xFF

/-- Second header byte (R7). -/
def hdr1 : Byte := 0x55

/-- The three order codes, a closed set (R53). -/
inductive OrderCode where
  | status
  | loadConf
  | control
  deriving DecidableEq, Repr

/-- The byte of an order code (R53). -/
def OrderCode.byte : OrderCode → Byte
  | .status => 0xC0
  | .loadConf => 0xC1
  | .control => 0xC2

/-- Whether a byte is one of the three order codes: the whole byte is compared (R53, R75). -/
def isOrderCode (b : Byte) : Bool :=
  b == OrderCode.status.byte || b == OrderCode.loadConf.byte || b == OrderCode.control.byte

/-- The checksum of a byte sequence: the sum over the natural numbers, reduced modulo 256 (R64). -/
def checksum (bs : List Byte) : Byte := BitVec.ofNat 8 ((bs.map BitVec.toNat).sum % 256)

/-- encodeRequest (R72): the eleven bytes and their checksum, or InvalidParameterCount. -/
def encodeRequest (order : OrderCode) (params : List Byte) : Except Cause (List Byte) :=
  if params.length ≠ 8 then .error .ipc
  else
    let f := [hdr0, hdr1, order.byte] ++ params
    .ok (f ++ [checksum f])

/-- decodeResponse (R83). The spec defines it on at most six bytes (R85); the answer for more is the model's, the
block's own OVR (log entry 6). The header and the echoed order code are not compared (R84). -/
def decodeResponse : List Byte → Except Cause (Byte × Byte)
  | [b0, b1, b2, b3, b4, b5] =>
    if checksum [b0, b1, b2, b3, b4] ≠ b5 then .error .cksum else .ok (b3, b4)
  | raw => if raw.length < 6 then .error .short else .error .ovr

/-- The first eleven bytes of a request frame (R35, R77). -/
def requestBody (o : Byte) (p : Vector Byte 8) : List Byte :=
  [hdr0, hdr1, o, p[0], p[1], p[2], p[3], p[4], p[5], p[6], p[7]]

/-- The checksum byte TXBUILD computes (R77). -/
def requestSum (o : Byte) (p : Vector Byte 8) : Byte := checksum (requestBody o p)

/-- The twelve bytes of a request frame in wire order (R35, R52). -/
def requestFrame (o : Byte) (p : Vector Byte 8) : Vector Byte 12 :=
  #v[hdr0, hdr1, o, p[0], p[1], p[2], p[3], p[4], p[5], p[6], p[7], requestSum o p]

/-- The checksum RXDEC computes over bytes 0 to 4 (R89). -/
def responseSum (r : Vector Byte 6) : Byte := checksum [r[0], r[1], r[2], r[3], r[4]]

/-- Twelve bytes as one 96-bit number, byte 0 in the most significant byte (R39, R60). -/
def packFrame12 (v : Vector Byte 12) : BitVec 96 :=
  v[0] ++ v[1] ++ v[2] ++ v[3] ++ v[4] ++ v[5] ++ v[6] ++ v[7] ++ v[8] ++ v[9] ++ v[10] ++ v[11]

/-- Byte `i` of a 12-byte frame written as one number. -/
def frame12Byte (f : BitVec 96) (i : Nat) : Byte := f.extractLsb' (8 * (11 - i)) 8

/-- Six bytes as one 48-bit number, byte 0 in the most significant byte (R39, R60). -/
def packFrame6 (v : Vector Byte 6) : BitVec 48 :=
  v[0] ++ v[1] ++ v[2] ++ v[3] ++ v[4] ++ v[5]

/-- Byte `i` of a 6-byte frame written as one number. -/
def frame6Byte (f : BitVec 48) (i : Nat) : Byte := f.extractLsb' (8 * (5 - i)) 8

end Sys2Proof.Machine
end

