-- ==== Sys2Proof/Machine/Operands.lean ====
section
/-!
DEFINITION. The operands of the pseudo-operations: the range check of the host, the byte an integer operand becomes
on the wire, and the eight-parameter layouts (spec/30_encoding.md R59, spec/44_commands.md R100 to R109, R111).
-/

namespace Sys2Proof.Machine

/-- The host's check before any command word is issued: every operand in 0 to 255 (R100). -/
def operandsInRange (ns : List Int) : Bool := ns.all fun n => decide (0 ≤ n) && decide (n ≤ 255)

/-- The byte of an integer operand; an operand in range goes out unchanged (R59). -/
def operandByte (n : Int) : Byte := BitVec.ofInt 8 n

/-- The bytes of the eight integer operands of REQ (R59). -/
def operandBytes (ns : Vector Int 8) : Vector Byte 8 :=
  #v[operandByte ns[0], operandByte ns[1], operandByte ns[2], operandByte ns[3], operandByte ns[4], operandByte ns[5],
    operandByte ns[6], operandByte ns[7]]

/-- The negative-displacement convention: `255 - moveTime` on integers (R111). -/
def negated (moveTime : Int) : Int := 255 - moveTime

/-- The fixed filler of LoadConf parameters (spec/00_scope.md R7). -/
def placeholder : Byte := 100

/-- The parameters of QSTATUS: all zero (R102). -/
def layoutStatus : Vector Byte 8 := #v[0, 0, 0, 0, 0, 0, 0, 0]

/-- The parameters of LOADCONF.C (R103). -/
def layoutLoadconfC (gameTime : Byte) : Vector Byte 8 :=
  #v[placeholder, placeholder, placeholder, placeholder, placeholder, placeholder, gameTime, 0]

/-- The parameters of LOADCONF.N (R104). -/
def layoutLoadconfN (smallPower bigPower gameTime : Byte) : Vector Byte 8 :=
  #v[placeholder, placeholder, placeholder, smallPower, bigPower, placeholder, gameTime, 0]

/-- The parameters of CTRL.FORWARD: the first axis is `moveTime` (R105). -/
def layoutForward (moveTime : Int) : Vector Byte 8 := #v[operandByte moveTime, 0, 0, 0, 0, 0, 0, 0]

/-- The parameters of CTRL.BACK: the first axis is `255 - moveTime` (R106). -/
def layoutBack (moveTime : Int) : Vector Byte 8 := #v[operandByte (negated moveTime), 0, 0, 0, 0, 0, 0, 0]

/-- The parameters of CTRL.LEFT: the second axis is `moveTime` (R107). -/
def layoutLeft (moveTime : Int) : Vector Byte 8 := #v[0, operandByte moveTime, 0, 0, 0, 0, 0, 0]

/-- The parameters of CTRL.RIGHT: the second axis is `255 - moveTime` (R108). -/
def layoutRight (moveTime : Int) : Vector Byte 8 := #v[0, operandByte (negated moveTime), 0, 0, 0, 0, 0, 0]

/-- The parameters of CTRL.CATCH (R109). -/
def layoutCatch : Vector Byte 8 := #v[0, 0, 1, 0, 0, 0, 0, 0]

end Sys2Proof.Machine
end

