-- ==== Sys2Proof/Syntax.lean ====
section
/-!
DEFINITION. The instructions: one constructor for each row of spec/opcode_table.json, and what the host can
issue to the block.
-/

namespace Sys2Proof

/-- The rows of spec/opcode_table.json. The first sixteen are the values of the operation code of a command word
(spec/30_encoding.md R48, R51); then the wire frames (R52, R55) and the pseudo-operations (R62), whose operands are
integers that the host checks to lie in 0 to 255 (spec/44_commands.md R100). -/
inductive Instr where
  /-- CSCLR, spec/40_checksum.md R68 -/
  | csclr
  /-- CSADD b, R69 -/
  | csadd (b : Byte)
  /-- CSRD, R70 -/
  | csrd
  /-- TXNEW o, spec/41_assembler.md R75 -/
  | txnew (o : Byte)
  /-- TXPAR b, R76 -/
  | txpar (b : Byte)
  /-- TXBUILD, R77 -/
  | txbuild
  /-- TXPOP, R78 -/
  | txpop
  /-- RXNEW, spec/42_parser.md R87 -/
  | rxnew
  /-- RXPUSH b, R88 -/
  | rxpush (b : Byte)
  /-- RXDEC, R89 -/
  | rxdec
  /-- RXP1, R90 -/
  | rxp1
  /-- RXP2, R91 -/
  | rxp2
  /-- ERRRD, spec/43_system.md R96 -/
  | errrd
  /-- ERRCLR, R97 -/
  | errclr
  /-- Reserved operation code 0x0, R98 -/
  | reserved0
  /-- Reserved operation code 0xF, R98 -/
  | reservedF
  /-- REQ.STATUS, the request frame with order code 0xC0, R72 and R52 -/
  | reqStatus (params : Vector Byte 8)
  /-- REQ.LOADCONF, the request frame with order code 0xC1 -/
  | reqLoadconf (params : Vector Byte 8)
  /-- REQ.CONTROL, the request frame with order code 0xC2 -/
  | reqControl (params : Vector Byte 8)
  /-- RSP, the six bytes of a response, R83 and R55; no bit of it is fixed (R56) -/
  | rsp (raw : Vector Byte 6)
  /-- REQ o, p0, ..., p7, spec/44_commands.md R101 -/
  | req (o : Int) (params : Vector Int 8)
  /-- QSTATUS, R102 -/
  | qstatus
  /-- LOADCONF.C gameTime, R103 -/
  | loadconfC (gameTime : Int)
  /-- LOADCONF.N smallPower, bigPower, gameTime, R104 -/
  | loadconfN (smallPower bigPower gameTime : Int)
  /-- CTRL.FORWARD moveTime, R105 -/
  | ctrlForward (moveTime : Int)
  /-- CTRL.BACK moveTime, R106 -/
  | ctrlBack (moveTime : Int)
  /-- CTRL.LEFT moveTime, R107 -/
  | ctrlLeft (moveTime : Int)
  /-- CTRL.RIGHT moveTime, R108 -/
  | ctrlRight (moveTime : Int)
  /-- CTRL.CATCH, R109 -/
  | ctrlCatch
  deriving DecidableEq, Repr

/-- An operand of a program line: a number, or the name of an order code (spec/30_encoding.md R61). -/
inductive AsmOperand where
  | num (n : Int)
  | name (s : String)
  deriving DecidableEq, Repr

/-- A line of a program, read into its mnemonic and operands (R61). -/
structure AsmLine where
  mnemonic : String
  operands : List AsmOperand
  deriving DecidableEq, Repr

/-- One thing the environment presents to the block. -/
inductive Input where
  /-- a command word on the port (R49) -/
  | cmd (w : CmdWord)
  /-- a 12-byte request frame to be produced and sent, as one number with frame byte 0 in the most significant byte (R60) -/
  | reqFrame (f : BitVec 96)
  /-- a 6-byte response frame the board returned, written the same way -/
  | rspFrame (f : BitVec 48)
  /-- a line of the host's program (R61, R62) -/
  | line (l : AsmLine)
  /-- the reset event RST (spec/70_reset_and_hazards.md R134) -/
  | rst
  deriving DecidableEq, Repr

end Sys2Proof
end

