-- ==== Sys2Proof/Machine/Assembler.lean ====
section
/-!
DEFINITION. The assembly language of spec/30_encoding.md R61 and R62: the text of a line to mnemonic and operands,
and mnemonic and operands to an instruction. Pseudo-operations keep their operands as integers; the host checks their
range when it issues them (spec/44_commands.md R100).
-/

namespace Sys2Proof.Machine

/-- The value of an operand: a number as it stands, an order code by name only where one is expected (R61). -/
def plainValue : AsmOperand → Option Int
  | .num n => some n
  | .name _ => none

/-- The value of an order-code operand: a number or one of the three names of R61. -/
def orderValue : AsmOperand → Option Int
  | .num n => some n
  | .name s =>
    if s = "STATUS" then some 0xC0
    else if s = "LOADCONF" then some 0xC1
    else if s = "CONTROL" then some 0xC2
    else none

/-- A line without operands. -/
def lineNone (i : Instr) : List AsmOperand → Except HostError Instr
  | [] => .ok i
  | _ => .error .assemblyError

/-- An operation line with one byte operand: a value outside 0 to 255 is an assembly error (R61). -/
def lineByte (value : AsmOperand → Option Int) (k : Byte → Instr) : List AsmOperand → Except HostError Instr
  | [a] =>
    match value a with
    | some n => if operandsInRange [n] then .ok (k (operandByte n)) else .error .assemblyError
    | none => .error .assemblyError
  | _ => .error .assemblyError

/-- A pseudo-operation line with one integer operand. -/
def lineInt (k : Int → Instr) : List AsmOperand → Except HostError Instr
  | [a] =>
    match plainValue a with
    | some n => .ok (k n)
    | none => .error .assemblyError
  | _ => .error .assemblyError

/-- The line of LOADCONF.N: three integer operands. -/
def lineInt3 (k : Int → Int → Int → Instr) : List AsmOperand → Except HostError Instr
  | [a, b, c] =>
    match plainValue a, plainValue b, plainValue c with
    | some x, some y, some z => .ok (k x y z)
    | _, _, _ => .error .assemblyError
  | _ => .error .assemblyError

/-- The line of REQ: an order code and eight integer operands (R101). With any other number of operands it is no REQ
line, and the class assemblyError is the model's choice (DESIGN CHOICE, log entry 13): R119 gives InvalidParameterCount
to a sequence of another length, R61 and R101 give no class to a line. -/
def lineReq : List AsmOperand → Except HostError Instr
  | [o, a0, a1, a2, a3, a4, a5, a6, a7] =>
    match orderValue o, plainValue a0, plainValue a1, plainValue a2, plainValue a3, plainValue a4, plainValue a5,
      plainValue a6, plainValue a7 with
    | some o, some p0, some p1, some p2, some p3, some p4, some p5, some p6, some p7 =>
      .ok (.req o #v[p0, p1, p2, p3, p4, p5, p6, p7])
    | _, _, _, _, _, _, _, _, _ => .error .assemblyError
  | _ => .error .assemblyError

/-- What an unknown mnemonic is: an unknown CTRL. command is UnknownCommand (spec/44_commands.md R110), anything else
an assembly error. A line of text whose operands cannot be read does not come here: see `readLine`. -/
def unknownMnemonic (m : String) : HostError :=
  if m.toList.take 5 = ['C', 'T', 'R', 'L', '.'] then .unknownCommand else .assemblyError

/-- The instruction of a program line (R61, R62). -/
def decodeLine (l : AsmLine) : Except HostError Instr :=
  if l.mnemonic = "CSCLR" then lineNone .csclr l.operands
  else if l.mnemonic = "CSADD" then lineByte plainValue .csadd l.operands
  else if l.mnemonic = "CSRD" then lineNone .csrd l.operands
  else if l.mnemonic = "TXNEW" then lineByte orderValue .txnew l.operands
  else if l.mnemonic = "TXPAR" then lineByte plainValue .txpar l.operands
  else if l.mnemonic = "TXBUILD" then lineNone .txbuild l.operands
  else if l.mnemonic = "TXPOP" then lineNone .txpop l.operands
  else if l.mnemonic = "RXNEW" then lineNone .rxnew l.operands
  else if l.mnemonic = "RXPUSH" then lineByte plainValue .rxpush l.operands
  else if l.mnemonic = "RXDEC" then lineNone .rxdec l.operands
  else if l.mnemonic = "RXP1" then lineNone .rxp1 l.operands
  else if l.mnemonic = "RXP2" then lineNone .rxp2 l.operands
  else if l.mnemonic = "ERRRD" then lineNone .errrd l.operands
  else if l.mnemonic = "ERRCLR" then lineNone .errclr l.operands
  else if l.mnemonic = "REQ" then lineReq l.operands
  else if l.mnemonic = "QSTATUS" then lineNone .qstatus l.operands
  else if l.mnemonic = "LOADCONF.C" then lineInt .loadconfC l.operands
  else if l.mnemonic = "LOADCONF.N" then lineInt3 .loadconfN l.operands
  else if l.mnemonic = "CTRL.FORWARD" then lineInt .ctrlForward l.operands
  else if l.mnemonic = "CTRL.BACK" then lineInt .ctrlBack l.operands
  else if l.mnemonic = "CTRL.LEFT" then lineInt .ctrlLeft l.operands
  else if l.mnemonic = "CTRL.RIGHT" then lineInt .ctrlRight l.operands
  else if l.mnemonic = "CTRL.CATCH" then lineNone .ctrlCatch l.operands
  else .error (unknownMnemonic l.mnemonic)

/-- White space inside a line. -/
def isBlank (c : Char) : Bool := c == ' ' || c == '\t' || c == '\r'

/-- A text without its leading and trailing white space. -/
def trimBlanks (cs : List Char) : List Char :=
  ((cs.dropWhile isBlank).reverse.dropWhile isBlank).reverse

/-- The pieces of a text between separators. -/
def splitAtChar (sep : Char) : List Char → List (List Char)
  | [] => [[]]
  | c :: cs =>
    if c = sep then [] :: splitAtChar sep cs
    else
      match splitAtChar sep cs with
      | [] => [[c]]
      | w :: ws => (c :: w) :: ws

/-- The value of a digit in a base up to sixteen; hexadecimal letters of either case (log entry 13). -/
def digitValue (base : Nat) (c : Char) : Option Nat :=
  let v :=
    if '0' ≤ c ∧ c ≤ '9' then c.toNat - '0'.toNat
    else if 'A' ≤ c ∧ c ≤ 'F' then c.toNat - 'A'.toNat + 10
    else if 'a' ≤ c ∧ c ≤ 'f' then c.toNat - 'a'.toNat + 10
    else 16
  if v < base then some v else none

/-- The value of a digit string, most significant digit first, on top of what was read before it. -/
def digitsValue (base : Nat) : Nat → List Char → Option Nat
  | acc, [] => some acc
  | acc, c :: cs =>
    match digitValue base c with
    | some d => digitsValue base (base * acc + d) cs
    | none => none

/-- A number: decimal, or hexadecimal after 0x (R61). No sign is read, as R61 writes none: '-1' is no number but a name,
which makes its line an assemblyError, where the same operand given as the number -1 is InvalidParameterCount by R100
(DESIGN CHOICE, log entry 13). -/
def readNumber : List Char → Option Nat
  | '0' :: 'x' :: c :: cs => digitsValue 16 0 (c :: cs)
  | c :: cs => digitsValue 10 0 (c :: cs)
  | [] => none

/-- One operand of a line; only the three names of R61 stand for a value, which `orderValue` checks. -/
def readOperand (cs : List Char) : Option AsmOperand :=
  match readNumber cs with
  | some n => some (.num n)
  | none => if cs = [] then none else some (.name (String.ofList cs))

/-- Every piece read, or nothing if one of them cannot be. -/
def readAll : List (List Char) → Option (List AsmOperand)
  | [] => some []
  | c :: cs =>
    match readOperand c, readAll cs with
    | some a, some as => some (a :: as)
    | _, _ => none

/-- A line of text: nothing for a blank or comment line, else its mnemonic and operands (R61). An empty operand is an
assemblyError whatever the mnemonic, an unknown CTRL. one included: the operands are read before the mnemonic is looked
at, an order the spec does not give (DESIGN CHOICE, log entry 13). -/
def readLine (text : List Char) : Except HostError (Option AsmLine) :=
  let body := trimBlanks (text.takeWhile (· != ';'))
  let mnemonic := body.takeWhile (!isBlank ·)
  let rest := trimBlanks (body.dropWhile (!isBlank ·))
  if mnemonic = [] then .ok none
  else if rest = [] then .ok (some ⟨String.ofList mnemonic, []⟩)
  else
    match readAll ((splitAtChar ',' rest).map trimBlanks) with
    | some ops => .ok (some ⟨String.ofList mnemonic, ops⟩)
    | none => .error .assemblyError

/-- The lines of a program, blank and comment lines left out; nothing if one of them cannot be read (DESIGN CHOICE, log
entry 13). -/
def readLines : List (List Char) → Except HostError (List AsmLine)
  | [] => .ok []
  | t :: ts =>
    match readLine t, readLines ts with
    | .ok none, r => r
    | .ok (some l), .ok ls => .ok (l :: ls)
    | .ok (some _), .error e => .error e
    | .error e, _ => .error e

/-- A program text as its sequence of lines (R61). -/
def readProgram (text : List Char) : Except HostError (List AsmLine) := readLines (splitAtChar '\n' text)

end Sys2Proof.Machine
end

