-- ==== Sys2Proof/Machine/Expansion.lean ====
section
/-!
DEFINITION. Which of the fourteen operations each row of the opcode table issues to the block
(spec/44_commands.md R100 to R109; spec/41_assembler.md R79; spec/44_commands.md R112).
-/

namespace Sys2Proof.Machine

/-- The expansion of `REQ o, p0, ..., p7` over bytes: TXNEW, eight TXPAR, TXBUILD (R101). -/
def requestExpansion (o : Byte) (p : Vector Byte 8) : List Instr :=
  [.txnew o, .txpar p[0], .txpar p[1], .txpar p[2], .txpar p[3], .txpar p[4], .txpar p[5], .txpar p[6],
    .txpar p[7], .txbuild]

/-- A whole request frame leaving the block: it is assembled and its twelve bytes are drawn (R79, R112). -/
def frameExpansion (o : OrderCode) (p : Vector Byte 8) : List Instr :=
  requestExpansion o.byte p ++ List.replicate 12 .txpop

/-- A whole response frame entering the block: RECV of six bytes, then RXDEC (R112, R113). -/
def responseExpansion (r : Vector Byte 6) : List Instr :=
  [.rxnew, .rxpush r[0], .rxpush r[1], .rxpush r[2], .rxpush r[3], .rxpush r[4], .rxpush r[5], .rxdec]

/-- The expansion if every operand is in range, nothing otherwise (R100). -/
def checkedExpansion (ns : List Int) (l : List Instr) : List Instr := if operandsInRange ns then l else []

/-- The operations an instruction issues, in order. -/
def expand : Instr → List Instr
  | .csclr => [.csclr]
  | .csadd b => [.csadd b]
  | .csrd => [.csrd]
  | .txnew o => [.txnew o]
  | .txpar b => [.txpar b]
  | .txbuild => [.txbuild]
  | .txpop => [.txpop]
  | .rxnew => [.rxnew]
  | .rxpush b => [.rxpush b]
  | .rxdec => [.rxdec]
  | .rxp1 => [.rxp1]
  | .rxp2 => [.rxp2]
  | .errrd => [.errrd]
  | .errclr => [.errclr]
  | .reserved0 => [.reserved0]
  | .reservedF => [.reservedF]
  | .reqStatus p => frameExpansion .status p
  | .reqLoadconf p => frameExpansion .loadConf p
  | .reqControl p => frameExpansion .control p
  | .rsp r => responseExpansion r
  | .req o ps => checkedExpansion (o :: ps.toList) (requestExpansion (operandByte o) (operandBytes ps))
  | .qstatus => requestExpansion OrderCode.status.byte layoutStatus
  | .loadconfC g => checkedExpansion [g] (requestExpansion OrderCode.loadConf.byte (layoutLoadconfC (operandByte g)))
  | .loadconfN s b g =>
    checkedExpansion [s, b, g]
      (requestExpansion OrderCode.loadConf.byte (layoutLoadconfN (operandByte s) (operandByte b) (operandByte g)))
  | .ctrlForward t => checkedExpansion [t] (requestExpansion OrderCode.control.byte (layoutForward t))
  | .ctrlBack t => checkedExpansion [t] (requestExpansion OrderCode.control.byte (layoutBack t))
  | .ctrlLeft t => checkedExpansion [t] (requestExpansion OrderCode.control.byte (layoutLeft t))
  | .ctrlRight t => checkedExpansion [t] (requestExpansion OrderCode.control.byte (layoutRight t))
  | .ctrlCatch => requestExpansion OrderCode.control.byte layoutCatch

end Sys2Proof.Machine
end

