-- ==== Sys2Proof/Decode.lean ====
section
/-!
DEFINITION. Decoding of everything the environment can present, and encoding (spec/30_encoding.md R48 to R63).
-/

namespace Sys2Proof

open Machine

/-- What an input is: an instruction, the reset event, or nothing the host may issue, by name. -/
inductive Decoded where
  | instr (i : Instr)
  | reset
  | reject (e : HostError)
  deriving DecidableEq, Repr

/-- The operation code of a command word: CMD[11:8] (R49). -/
def cmdOp (w : CmdWord) : BitVec 4 := w.extractLsb' 8 4

/-- The operand byte of a command word: CMD[7:0] (R49). -/
def cmdData (w : CmdWord) : Byte := w.extractLsb' 0 8

/-- The command word of an operation code and an operand byte (R49). -/
def cmdWord (op : BitVec 4) (data : Byte) : CmdWord := op ++ data

/-- The operation of an operation code and an operand byte: every one of the sixteen codes has one, and the operand is
ignored where the operation has none (R48, R50, R51). The last arm is operation code 0xF. -/
def instrOf (op : BitVec 4) (data : Byte) : Instr :=
  match op.toNat with
  | 0x0 => .reserved0
  | 0x1 => .csclr
  | 0x2 => .csadd data
  | 0x3 => .csrd
  | 0x4 => .txnew data
  | 0x5 => .txpar data
  | 0x6 => .txbuild
  | 0x7 => .txpop
  | 0x8 => .rxnew
  | 0x9 => .rxpush data
  | 0xA => .rxdec
  | 0xB => .rxp1
  | 0xC => .rxp2
  | 0xD => .errrd
  | 0xE => .errclr
  | _ => .reservedF

/-- The operation a command word selects: every one of the 4096 words selects one (R48, R49). -/
def decodeCmd (w : CmdWord) : Instr := instrOf (cmdOp w) (cmdData w)

/-- The parameter bytes of a request frame: frame bytes 3 to 10 (R52). -/
def frameParams (f : BitVec 96) : Vector Byte 8 :=
  #v[frame12Byte f 3, frame12Byte f 4, frame12Byte f 5, frame12Byte f 6, frame12Byte f 7, frame12Byte f 8,
    frame12Byte f 9, frame12Byte f 10]

/-- The request frame a 96-bit number is: fixed header, an order code, and the checksum of the first eleven bytes
(R52, R53); anything else is no request frame. Never one of the pseudo-operations, whose frames overlap (R63). -/
def decodeReqFrame (f : BitVec 96) : Option Instr :=
  let order := frame12Byte f 2
  let params := frameParams f
  if frame12Byte f 0 = hdr0 ∧ frame12Byte f 1 = hdr1 ∧ frame12Byte f 11 = requestSum order params then
    if order = OrderCode.status.byte then some (.reqStatus params)
    else if order = OrderCode.loadConf.byte then some (.reqLoadconf params)
    else if order = OrderCode.control.byte then some (.reqControl params)
    else none
  else none

/-- The response frame a 48-bit number is: no bit is fixed, so every one is (R56). -/
def decodeRspFrame (f : BitVec 48) : Instr :=
  .rsp #v[frame6Byte f 0, frame6Byte f 1, frame6Byte f 2, frame6Byte f 3, frame6Byte f 4, frame6Byte f 5]

/-- Decoding, total on every input. -/
def decode : Input → Decoded
  | .cmd w => .instr (decodeCmd w)
  | .reqFrame f =>
    match decodeReqFrame f with
    | some i => .instr i
    | none => .reject .notARequestFrame
  | .rspFrame f => .instr (decodeRspFrame f)
  | .line l =>
    match decodeLine l with
    | .ok i => .instr i
    | .error e => .reject e
  | .rst => .reset

/-- The command word of an operation, with `DATA = 0x00` where it has no operand (R48, R61); none for the rows that
are no single command word. -/
def operationWord : Instr → Option CmdWord
  | .csclr => some (cmdWord 0x1 0)
  | .csadd b => some (cmdWord 0x2 b)
  | .csrd => some (cmdWord 0x3 0)
  | .txnew o => some (cmdWord 0x4 o)
  | .txpar b => some (cmdWord 0x5 b)
  | .txbuild => some (cmdWord 0x6 0)
  | .txpop => some (cmdWord 0x7 0)
  | .rxnew => some (cmdWord 0x8 0)
  | .rxpush b => some (cmdWord 0x9 b)
  | .rxdec => some (cmdWord 0xA 0)
  | .rxp1 => some (cmdWord 0xB 0)
  | .rxp2 => some (cmdWord 0xC 0)
  | .errrd => some (cmdWord 0xD 0)
  | .errclr => some (cmdWord 0xE 0)
  | .reserved0 => some (cmdWord 0x0 0)
  | .reservedF => some (cmdWord 0xF 0)
  | .reqStatus _ => none
  | .reqLoadconf _ => none
  | .reqControl _ => none
  | .rsp _ => none
  | .req _ _ => none
  | .qstatus => none
  | .loadconfC _ => none
  | .loadconfN _ _ _ => none
  | .ctrlForward _ => none
  | .ctrlBack _ => none
  | .ctrlLeft _ => none
  | .ctrlRight _ => none
  | .ctrlCatch => none

/-- The command words an instruction issues to the block, in order (R61, spec/44_commands.md R100, R101). -/
def encodeWords (i : Instr) : List CmdWord := (expand i).filterMap operationWord

/-- A pseudo-operation line with number operands. -/
def numLine (m : String) (ns : List Int) : Input := .line ⟨m, ns.map .num⟩

/-- The input an instruction is presented as: a command word, a frame, or a program line (a pseudo-operation has no
word of its own, R60). -/
def encode : Instr → Input
  | .csclr => .cmd (cmdWord 0x1 0)
  | .csadd b => .cmd (cmdWord 0x2 b)
  | .csrd => .cmd (cmdWord 0x3 0)
  | .txnew o => .cmd (cmdWord 0x4 o)
  | .txpar b => .cmd (cmdWord 0x5 b)
  | .txbuild => .cmd (cmdWord 0x6 0)
  | .txpop => .cmd (cmdWord 0x7 0)
  | .rxnew => .cmd (cmdWord 0x8 0)
  | .rxpush b => .cmd (cmdWord 0x9 b)
  | .rxdec => .cmd (cmdWord 0xA 0)
  | .rxp1 => .cmd (cmdWord 0xB 0)
  | .rxp2 => .cmd (cmdWord 0xC 0)
  | .errrd => .cmd (cmdWord 0xD 0)
  | .errclr => .cmd (cmdWord 0xE 0)
  | .reserved0 => .cmd (cmdWord 0x0 0)
  | .reservedF => .cmd (cmdWord 0xF 0)
  | .reqStatus p => .reqFrame (packFrame12 (requestFrame OrderCode.status.byte p))
  | .reqLoadconf p => .reqFrame (packFrame12 (requestFrame OrderCode.loadConf.byte p))
  | .reqControl p => .reqFrame (packFrame12 (requestFrame OrderCode.control.byte p))
  | .rsp r => .rspFrame (packFrame6 r)
  | .req o ps => numLine "REQ" (o :: ps.toList)
  | .qstatus => numLine "QSTATUS" []
  | .loadconfC g => numLine "LOADCONF.C" [g]
  | .loadconfN s b g => numLine "LOADCONF.N" [s, b, g]
  | .ctrlForward t => numLine "CTRL.FORWARD" [t]
  | .ctrlBack t => numLine "CTRL.BACK" [t]
  | .ctrlLeft t => numLine "CTRL.LEFT" [t]
  | .ctrlRight t => numLine "CTRL.RIGHT" [t]
  | .ctrlCatch => numLine "CTRL.CATCH" []

/-- The command words a program line assembles to, or why there are none (R61, R100). -/
def assembleLine (l : AsmLine) : Except HostError (List CmdWord) :=
  match decodeLine l with
  | .error e => .error e
  | .ok i => if encodeWords i = [] then .error (.block .ipc) else .ok (encodeWords i)

/-- The command words of a sequence of lines. One refused line voids the whole sequence, and the first one gives the
error; the spec says only that no command word is produced for an operand out of range (DESIGN CHOICE, log entry 13). -/
def assembleLines : List AsmLine → Except HostError (List CmdWord)
  | [] => .ok []
  | l :: ls =>
    match assembleLine l, assembleLines ls with
    | .ok ws, .ok rest => .ok (ws ++ rest)
    | .ok _, .error e => .error e
    | .error e, _ => .error e

/-- The command words of a program text; a line that cannot be read voids the whole text, before any line is assembled
(DESIGN CHOICE, log entry 13). -/
def assembleProgram (text : List Char) : Except HostError (List CmdWord) :=
  match readProgram text with
  | .ok ls => assembleLines ls
  | .error e => .error e

/-- A request frame of the opcode table: its `match` carries no checksum, which the row gives as a `constraint` (R60);
so where byte 11 is 0x00 it is the checksum of R52, and where it is written it stays (log entry 8). -/
def tableFrame (f : BitVec 96) : BitVec 96 :=
  if frame12Byte f 11 = 0x00 then f.extractLsb' 8 88 ++ requestSum (frame12Byte f 2) (frameParams f) else f

/-- The input a row of spec/opcode_table.json stands for, its bits numbered as the table numbers them: a command word
is one 12-bit number, a frame one 96- or 48-bit number with frame byte 0 in the most significant byte (R60). -/
def tableInput (nbits w : Nat) : Option Input :=
  if nbits ≤ 16 then (if w < 4096 then some (.cmd (BitVec.ofNat 12 w)) else none)
  else if nbits = 48 then (if w < 2 ^ 48 then some (.rspFrame (BitVec.ofNat 48 w)) else none)
  else if nbits = 96 then (if w < 2 ^ 96 then some (.reqFrame (tableFrame (BitVec.ofNat 96 w))) else none)
  else none

/-- The instruction the decoder reads from an instruction whose bits are `w`. -/
def decodeTableWord (nbits w : Nat) : Option Instr :=
  match tableInput nbits w with
  | some x =>
    match decode x with
    | .instr i => some i
    | .reset => none
    | .reject _ => none
  | none => none

end Sys2Proof
end

