-- ==== Sys2Proof/Config.lean ====
section
/-!
DEFINITION. What the spec leaves to no one: the free values. Every other parameter is fixed by the spec
(spec/00_scope.md R7, R8: "no parameter is left open for the model to take as an argument").
-/

namespace Sys2Proof

/-- The bytes the data registers hold after a reset EVENT, which spec/70_reset_and_hazards.md R134 leaves
unspecified (log entry 3, safe). No body: nothing in Lean can learn a value of it. -/
opaque Config.unspecifiedByte : Nat → Byte

end Sys2Proof
end

