-- ==== Sys2Proof/Machine/State.lean ====
section
/-!
DEFINITION. The state: the thirteen elements of spec/10_state.md R13 in `Block`, and around them what the model needs
to be driven (the host's pending inputs) and to be observed (the responses, the host layer's report).
-/

namespace Sys2Proof.Machine

/-- The assembler's state TXST, two bits with the values 0, 1, 2; the value 3 never occurs (R19). -/
inductive TxState where
  | idle
  | load
  | ready
  deriving DecidableEq, Repr

/-- The response to one command word (spec/30_encoding.md R49). -/
structure Response where
  /-- STAT: 0 is success, 1 to 7 an error code -/
  stat : BitVec 4
  /-- DOUT: the result byte -/
  dout : Byte
  deriving DecidableEq, Repr

/-- The thirteen elements of the block and no others (R13), 262 bits. -/
structure Block where
  /-- ACC, running sum modulo 256 (R14) -/
  acc : Byte
  /-- ORD, order code of the request being assembled (R15) -/
  ord : Byte
  /-- PAR[0..7], parameter bytes of the request being assembled (R16) -/
  par : Vector Byte 8
  /-- PCNT, parameters pushed since the last TXNEW, saturating at 9 (R17) -/
  pcnt : BitVec 4
  /-- TXBUF[0..11], the assembled request frame (R18) -/
  txbuf : Vector Byte 12
  /-- TXST (R19) -/
  txst : TxState
  /-- TXPTR, index of the byte the next TXPOP delivers (R20) -/
  txptr : BitVec 4
  /-- RXBUF[0..5], received bytes (R21) -/
  rxbuf : Vector Byte 6
  /-- RXCNT, bytes pushed since the last RXNEW or reset (R22) -/
  rxcnt : BitVec 3
  /-- P1, response payload byte param1 (R23) -/
  p1 : Byte
  /-- P2, response payload byte param2 (R23) -/
  p2 : Byte
  /-- PV, whether P1 and P2 hold the payload of a validated frame (R24) -/
  pv : Bool
  /-- ERR, sticky error flags (R25) -/
  err : Byte
  deriving DecidableEq, Repr

/-- The machine. `block` is the spec's state; the other fields are the model's own (log entries 1 and 3). -/
structure State where
  /-- the thirteen elements of R13 -/
  block : Block
  /-- what the block answered to the command words issued last, oldest first; its last entry is the response port -/
  resp : List Response
  /-- the error the host layer gave for the last thing issued, if it gave one -/
  report : Option HostError
  /-- what the host issues next, oldest first -/
  pending : List Input
  /-- how many free bytes reset events have drawn -/
  freeCtr : Nat
  deriving DecidableEq, Repr

/-- Why the machine stops. No state reachable from reset gives either (spec/20_memory.md R34). -/
inductive Fault where
  /-- raised by TXPOP in state READY with TXPTR above 11: TXBUF has no such cell; safe, the machine stops -/
  | txIndexOutOfRange
  /-- raised by RXPUSH with RXCNT = 7: RXBUF has no such cell; safe, the machine stops -/
  | rxIndexOutOfRange
  deriving DecidableEq, Repr

/-- Why an instruction is refused. -/
inductive Refusal where
  /-- raised only by an arm of `exec` that has no meaning yet; there is none left; safe -/
  | notModelled (mnemonic : String)
  deriving DecidableEq, Repr

/-- The block right after reset (R33). ORD, PAR, TXBUF, RXBUF, P1, P2 are unspecified there: zero is the model's
choice (log entry 2, DESIGN CHOICE, unsafe). -/
def Block.reset : Block where
  acc := 0x00
  ord := 0x00
  par := #v[0, 0, 0, 0, 0, 0, 0, 0]
  pcnt := 0
  txbuf := #v[0, 0, 0, 0, 0, 0, 0, 0, 0, 0, 0, 0]
  txst := .idle
  txptr := 0
  rxbuf := #v[0, 0, 0, 0, 0, 0]
  rxcnt := 0
  p1 := 0x00
  p2 := 0x00
  pv := false
  err := 0x00

/-- The machine right after reset: no response yet (R136), nothing issued. -/
def State.reset : State where
  block := Block.reset
  resp := []
  report := none
  pending := []
  freeCtr := 0

end Sys2Proof.Machine
end

