-- ==== Sys2Proof/Machine/Ops.lean ====
section
/-!
DEFINITION. The shared operations: answering a command word, raising an error (the block's whole exception entry,
spec/60_exceptions.md R124), issuing a sequence of operations, the host's rejection, the reset event. There is no
return from an error, because nothing was entered (R128).
-/

namespace Sys2Proof.Machine

/-- One operation of the block: the state before it to the response and the state after it (spec/00_scope.md R10,
R11). A fault is an index outside an array, which no reachable state gives. -/
abbrev BlockOp := Block → Except Fault (Response × Block)

/-- The success response with data `d` (R49). -/
def okResponse (d : Byte) : Response := ⟨0, d⟩

/-- The response of an error: its code, and 0x00 as data (R124, R125). -/
def errResponse (c : Cause) : Response := ⟨c.code, 0x00⟩

/-- `respond(0, d)` of spec/00_scope.md R10. -/
def Block.respond (d : Byte) : BlockOp := fun b => .ok (okResponse d, b)

/-- `raise E` of R124: the sticky flag is set and the code answered; nothing else changes. The abort effects are applied
by the operation before it raises. -/
def Block.raise (c : Cause) : BlockOp := fun b => .ok (errResponse c, { b with err := setFlag b.err c })

/-- Operations one after another, each seeing the state the one before it left (spec/20_memory.md R44). -/
def runOps : List BlockOp → Block → Except Fault (List Response × Block)
  | [], b => .ok ([], b)
  | op :: ops, b =>
    match op b with
    | .error f => .error f
    | .ok (r, b') =>
      match runOps ops b' with
      | .error f => .error f
      | .ok (rs, b'') => .ok (r :: rs, b'')

/-- The response port: the response of the last operation, 0/00 after reset (spec/10_state.md R26, R136). -/
def State.port (s : State) : Response := s.resp.getLast?.getD (okResponse 0x00)

/-- The state after command words were answered with `rs`, leaving the block in `b`. -/
def State.answered (s : State) (rs : List Response) (b : Block) : State :=
  { s with block := b, resp := rs, report := none }

/-- Issue operations to the block. -/
def State.issue (ops : List BlockOp) (s : State) : Host.Outcome State Fault Refusal :=
  match runOps ops s.block with
  | .ok (rs, b) => .next (s.answered rs b)
  | .error f => .fault f

/-- The host rejects something before any command word is issued: the block sees nothing (spec/44_commands.md R100,
R110), so only the host layer's report changes. -/
def State.reject (e : HostError) (s : State) : State := { s with report := some e }

/-- Issue the operations of a pseudo-operation, whose operands the host checks first (R100). -/
def State.issueChecked (operands : List Int) (ops : List BlockOp) (s : State) : Host.Outcome State Fault Refusal :=
  if operandsInRange operands then s.issue ops else .next (s.reject (.block .ipc))

/-- The free byte with index `k` of a reset event in state `s`. -/
def State.freeByte (s : State) (k : Nat) : Byte := Config.unspecifiedByte (s.freeCtr + k)

/-- The block after a reset event (spec/70_reset_and_hazards.md R134): the control elements at their reset values,
the data registers unspecified, so each takes a free byte (log entry 3). -/
def State.resetBlock (s : State) : Block where
  acc := 0x00
  ord := s.freeByte 0
  par := #v[s.freeByte 1, s.freeByte 2, s.freeByte 3, s.freeByte 4, s.freeByte 5, s.freeByte 6, s.freeByte 7,
    s.freeByte 8]
  pcnt := 0
  txbuf := #v[s.freeByte 9, s.freeByte 10, s.freeByte 11, s.freeByte 12, s.freeByte 13, s.freeByte 14, s.freeByte 15,
    s.freeByte 16, s.freeByte 17, s.freeByte 18, s.freeByte 19, s.freeByte 20]
  txst := .idle
  txptr := 0
  rxbuf := #v[s.freeByte 21, s.freeByte 22, s.freeByte 23, s.freeByte 24, s.freeByte 25, s.freeByte 26]
  rxcnt := 0
  p1 := s.freeByte 27
  p2 := s.freeByte 28
  pv := false
  err := 0x00

/-- The reset event RST (R134, R136): the port shows 0/00 again; what the host issues next is not the block's. -/
def State.resetEvent (s : State) : State :=
  { s with block := s.resetBlock, resp := [], report := none, freeCtr := s.freeCtr + 29 }

end Sys2Proof.Machine
end

