-- ==== Sys2Proof/Machine/AssemblerUnit.lean ====
section
/-!
DEFINITION. The frame assembler: TXNEW, TXPAR, TXBUILD, TXPOP (spec/41_assembler.md R74 to R78).
-/

namespace Sys2Proof.Machine

/-- TXNEW (R75): a legal order code starts a request in every state; any other byte is ILLORD and forces IDLE. -/
def Block.txnew (o : Byte) : BlockOp := fun b =>
  if isOrderCode o then { b with ord := o, pcnt := 0, txst := .load }.respond 0x00
  else { b with txst := .idle }.raise .illord

/-- The parameter cells after a byte is pushed: the ninth and later bytes are not stored (R76). -/
def Block.pushedPar (b : Block) (x : Byte) : Vector Byte 8 :=
  if b.pcnt.toNat < 8 then b.par.setIfInBounds b.pcnt.toNat x else b.par

/-- `min(PCNT + 1, 9)`: the count saturates at 9 (R76, spec/10_state.md R17). -/
def saturatedSucc (n : BitVec 4) : BitVec 4 := BitVec.ofNat 4 (min (n.toNat + 1) 9)

/-- TXPAR (R76). -/
def Block.txpar (x : Byte) : BlockOp := fun b =>
  if b.txst ≠ .load then b.raise .seq
  else { b with par := b.pushedPar x, pcnt := saturatedSucc b.pcnt }.respond 0x00

/-- TXBUILD (R77): the state is tested before the count (R126). -/
def Block.txbuild : BlockOp := fun b =>
  if b.txst ≠ .load then b.raise .seq
  else if b.pcnt ≠ 8 then { b with txst := .idle }.raise .ipc
  else
    { b with
      txbuf := requestFrame b.ord b.par, acc := requestSum b.ord b.par, txptr := 0, txst := .ready }.respond 0x00

/-- TXPOP (R78): the next byte in wire order; after the twelfth the assembler is idle. -/
def Block.txpop : BlockOp := fun b =>
  if b.txst ≠ .ready then b.raise .seq
  else
    match b.txbuf[b.txptr.toNat]? with
    | none => .error .txIndexOutOfRange
    | some d => { b with txptr := b.txptr + 1, txst := if b.txptr + 1 = 12 then .idle else b.txst }.respond d

/-- TXNEW -/
def execTxnew (o : Byte) (s : State) : Host.Outcome State Fault Refusal := s.issue [Block.txnew o]

/-- TXPAR -/
def execTxpar (x : Byte) (s : State) : Host.Outcome State Fault Refusal := s.issue [Block.txpar x]

/-- TXBUILD -/
def execTxbuild (s : State) : Host.Outcome State Fault Refusal := s.issue [Block.txbuild]

/-- TXPOP -/
def execTxpop (s : State) : Host.Outcome State Fault Refusal := s.issue [Block.txpop]

end Sys2Proof.Machine
end

