-- ==== Sys2Proof/Machine/ChecksumUnit.lean ====
section
/-!
DEFINITION. The checksum generator: CSCLR, CSADD, CSRD (spec/40_checksum.md R68 to R70).
-/

namespace Sys2Proof.Machine

/-- CSCLR (R68). -/
def Block.csclr : BlockOp := fun b => { b with acc := 0x00 }.respond 0x00

/-- CSADD (R69): the addition wraps modulo 256, the carry is discarded (R65). -/
def Block.csadd (x : Byte) : BlockOp := fun b => { b with acc := b.acc + x }.respond 0x00

/-- CSRD (R70). -/
def Block.csrd : BlockOp := fun b => b.respond b.acc

/-- CSCLR -/
def execCsclr (s : State) : Host.Outcome State Fault Refusal := s.issue [Block.csclr]

/-- CSADD -/
def execCsadd (x : Byte) (s : State) : Host.Outcome State Fault Refusal := s.issue [Block.csadd x]

/-- CSRD -/
def execCsrd (s : State) : Host.Outcome State Fault Refusal := s.issue [Block.csrd]

end Sys2Proof.Machine
end

