-- ==== Sys2Proof/Machine/ParserUnit.lean ====
section
/-!
DEFINITION. The frame parser: RXNEW, RXPUSH, RXDEC, RXP1, RXP2 (spec/42_parser.md R87 to R91).
-/

namespace Sys2Proof.Machine

/-- RXNEW (R87). -/
def Block.rxnew : BlockOp := fun b => { b with rxcnt := 0, pv := false }.respond 0x00

/-- RXPUSH (R88): a seventh byte is OVR and dropped. RXCNT = 7 never occurs (spec/10_state.md R22). -/
def Block.rxpush (x : Byte) : BlockOp := fun b =>
  if b.rxcnt = 6 then b.raise .ovr
  else if b.rxcnt.toNat < 6 then
    { b with rxbuf := b.rxbuf.setIfInBounds b.rxcnt.toNat x, rxcnt := b.rxcnt + 1 }.respond 0x00
  else .error .rxIndexOutOfRange

/-- RXDEC (R89): the length is tested before the checksum; the computed sum is left in ACC whether or not it matches;
header and echoed order code are not compared (R84). -/
def Block.rxdec : BlockOp := fun b =>
  if b.rxcnt.toNat < 6 then { b with pv := false }.raise .short
  else if responseSum b.rxbuf ≠ b.rxbuf[5] then
    { b with acc := responseSum b.rxbuf, pv := false }.raise .cksum
  else { b with acc := responseSum b.rxbuf, p1 := b.rxbuf[3], p2 := b.rxbuf[4], pv := true }.respond 0x00

/-- RXP1 (R90). -/
def Block.rxp1 : BlockOp := fun b => if b.pv = false then b.raise .seq else b.respond b.p1

/-- RXP2 (R91). -/
def Block.rxp2 : BlockOp := fun b => if b.pv = false then b.raise .seq else b.respond b.p2

/-- RXNEW -/
def execRxnew (s : State) : Host.Outcome State Fault Refusal := s.issue [Block.rxnew]

/-- RXPUSH -/
def execRxpush (x : Byte) (s : State) : Host.Outcome State Fault Refusal := s.issue [Block.rxpush x]

/-- RXDEC -/
def execRxdec (s : State) : Host.Outcome State Fault Refusal := s.issue [Block.rxdec]

/-- RXP1 -/
def execRxp1 (s : State) : Host.Outcome State Fault Refusal := s.issue [Block.rxp1]

/-- RXP2 -/
def execRxp2 (s : State) : Host.Outcome State Fault Refusal := s.issue [Block.rxp2]

end Sys2Proof.Machine
end

