-- ==== Sys2Proof/Machine/Requests.lean ====
section
/-!
DEFINITION. The rows of the opcode table that are more than one command word: the request frames REQ.STATUS,
REQ.LOADCONF, REQ.CONTROL, the response frame RSP, and the nine pseudo-operations. Their operations are issued in order
with nothing between them (spec/44_commands.md R100), so one step of the model runs them all (log entry 4).
-/

namespace Sys2Proof.Machine

/-- The operations that assemble a request (R101). -/
def requestOps (o : Byte) (p : Vector Byte 8) : List BlockOp :=
  [Block.txnew o, Block.txpar p[0], Block.txpar p[1], Block.txpar p[2], Block.txpar p[3], Block.txpar p[4],
    Block.txpar p[5], Block.txpar p[6], Block.txpar p[7], Block.txbuild]

/-- The operations that draw a whole built frame: twelve TXPOP (SEND, R112). -/
def sendOps : List BlockOp := List.replicate 12 Block.txpop

/-- A request frame leaves the block: assembled, then drawn (spec/41_assembler.md R79, log entry 5). -/
def frameOps (o : OrderCode) (p : Vector Byte 8) : List BlockOp := requestOps o.byte p ++ sendOps

/-- A response frame enters the block: RXNEW, its six bytes, RXDEC (R112, R113, log entry 5). -/
def responseOps (r : Vector Byte 6) : List BlockOp :=
  [Block.rxnew, Block.rxpush r[0], Block.rxpush r[1], Block.rxpush r[2], Block.rxpush r[3], Block.rxpush r[4],
    Block.rxpush r[5], Block.rxdec]

/-- REQ.STATUS: encodeRequest with order code 0xC0 (R72, R52) -/
def execReqStatus (p : Vector Byte 8) (s : State) : Host.Outcome State Fault Refusal := s.issue (frameOps .status p)

/-- REQ.LOADCONF: encodeRequest with order code 0xC1 -/
def execReqLoadconf (p : Vector Byte 8) (s : State) : Host.Outcome State Fault Refusal :=
  s.issue (frameOps .loadConf p)

/-- REQ.CONTROL: encodeRequest with order code 0xC2 -/
def execReqControl (p : Vector Byte 8) (s : State) : Host.Outcome State Fault Refusal := s.issue (frameOps .control p)

/-- RSP: decodeResponse of the six bytes (R83, R55) -/
def execRsp (r : Vector Byte 6) (s : State) : Host.Outcome State Fault Refusal := s.issue (responseOps r)

/-- REQ (R101): an order byte that is no order code gives ILLORD, and then SEQ nine times -/
def execReq (o : Int) (ps : Vector Int 8) (s : State) : Host.Outcome State Fault Refusal :=
  s.issueChecked (o :: ps.toList) (requestOps (operandByte o) (operandBytes ps))

/-- QSTATUS (R102) -/
def execQstatus (s : State) : Host.Outcome State Fault Refusal :=
  s.issue (requestOps OrderCode.status.byte layoutStatus)

/-- LOADCONF.C (R103) -/
def execLoadconfC (g : Int) (s : State) : Host.Outcome State Fault Refusal :=
  s.issueChecked [g] (requestOps OrderCode.loadConf.byte (layoutLoadconfC (operandByte g)))

/-- LOADCONF.N (R104) -/
def execLoadconfN (sp bp g : Int) (s : State) : Host.Outcome State Fault Refusal :=
  s.issueChecked [sp, bp, g]
    (requestOps OrderCode.loadConf.byte (layoutLoadconfN (operandByte sp) (operandByte bp) (operandByte g)))

/-- CTRL.FORWARD (R105) -/
def execCtrlForward (t : Int) (s : State) : Host.Outcome State Fault Refusal :=
  s.issueChecked [t] (requestOps OrderCode.control.byte (layoutForward t))

/-- CTRL.BACK (R106) -/
def execCtrlBack (t : Int) (s : State) : Host.Outcome State Fault Refusal :=
  s.issueChecked [t] (requestOps OrderCode.control.byte (layoutBack t))

/-- CTRL.LEFT (R107) -/
def execCtrlLeft (t : Int) (s : State) : Host.Outcome State Fault Refusal :=
  s.issueChecked [t] (requestOps OrderCode.control.byte (layoutLeft t))

/-- CTRL.RIGHT (R108) -/
def execCtrlRight (t : Int) (s : State) : Host.Outcome State Fault Refusal :=
  s.issueChecked [t] (requestOps OrderCode.control.byte (layoutRight t))

/-- CTRL.CATCH (R109) -/
def execCtrlCatch (s : State) : Host.Outcome State Fault Refusal :=
  s.issue (requestOps OrderCode.control.byte layoutCatch)

end Sys2Proof.Machine
end

