-- ==== Sys2Proof/Machine/StatusUnit.lean ====
section
/-!
DEFINITION. The status operations ERRRD, ERRCLR and the reserved operation codes (spec/43_system.md R96 to R98).
-/

namespace Sys2Proof.Machine

/-- ERRRD (R96): reading does not clear. -/
def Block.errrd : BlockOp := fun b => b.respond b.err

/-- ERRCLR (R97): all flags at once, nothing else. -/
def Block.errclr : BlockOp := fun b => { b with err := 0x00 }.respond 0x00

/-- A reserved operation code (R98): ILLOP, nothing else changes. -/
def Block.reservedOp : BlockOp := fun b => b.raise .illop

/-- ERRRD -/
def execErrrd (s : State) : Host.Outcome State Fault Refusal := s.issue [Block.errrd]

/-- ERRCLR -/
def execErrclr (s : State) : Host.Outcome State Fault Refusal := s.issue [Block.errclr]

/-- Reserved operation code 0x0 -/
def execReserved0 (s : State) : Host.Outcome State Fault Refusal := s.issue [Block.reservedOp]

/-- Reserved operation code 0xF -/
def execReservedF (s : State) : Host.Outcome State Fault Refusal := s.issue [Block.reservedOp]

end Sys2Proof.Machine
end

