-- ==== Sys2Proof/Machine/Dispatch.lean ====
section
/-!
DEFINITION. The meaning of every instruction: one arm per row of spec/opcode_table.json.
-/

namespace Sys2Proof.Machine

def exec (i : Instr) (s : State) : Host.Outcome State Fault Refusal :=
  match i with
  | .csclr => Sys2Proof.Machine.execCsclr s
  | .csadd b => Sys2Proof.Machine.execCsadd b s
  | .csrd => Sys2Proof.Machine.execCsrd s
  | .txnew o => Sys2Proof.Machine.execTxnew o s
  | .txpar b => Sys2Proof.Machine.execTxpar b s
  | .txbuild => Sys2Proof.Machine.execTxbuild s
  | .txpop => Sys2Proof.Machine.execTxpop s
  | .rxnew => Sys2Proof.Machine.execRxnew s
  | .rxpush b => Sys2Proof.Machine.execRxpush b s
  | .rxdec => Sys2Proof.Machine.execRxdec s
  | .rxp1 => Sys2Proof.Machine.execRxp1 s
  | .rxp2 => Sys2Proof.Machine.execRxp2 s
  | .errrd => Sys2Proof.Machine.execErrrd s
  | .errclr => Sys2Proof.Machine.execErrclr s
  | .reserved0 => Sys2Proof.Machine.execReserved0 s
  | .reservedF => Sys2Proof.Machine.execReservedF s
  | .reqStatus params => Sys2Proof.Machine.execReqStatus params s
  | .reqLoadconf params => Sys2Proof.Machine.execReqLoadconf params s
  | .reqControl params => Sys2Proof.Machine.execReqControl params s
  | .rsp raw => Sys2Proof.Machine.execRsp raw s
  | .req o params => Sys2Proof.Machine.execReq o params s
  | .qstatus => Sys2Proof.Machine.execQstatus s
  | .loadconfC gameTime => Sys2Proof.Machine.execLoadconfC gameTime s
  | .loadconfN smallPower bigPower gameTime => Sys2Proof.Machine.execLoadconfN smallPower bigPower gameTime s
  | .ctrlForward moveTime => Sys2Proof.Machine.execCtrlForward moveTime s
  | .ctrlBack moveTime => Sys2Proof.Machine.execCtrlBack moveTime s
  | .ctrlLeft moveTime => Sys2Proof.Machine.execCtrlLeft moveTime s
  | .ctrlRight moveTime => Sys2Proof.Machine.execCtrlRight moveTime s
  | .ctrlCatch => Sys2Proof.Machine.execCtrlCatch s

end Sys2Proof.Machine
end

