-- ==== Sys2Proof/Machine/Step.lean ====
section
/-!
DEFINITION. One step: the next thing the host presents is taken from `pending`, decoded and executed.
-/

namespace Sys2Proof.Machine

/-- One step (spec/00_scope.md R11). With nothing presented the block does nothing: it acts only in response to a
command word or reset (spec/60_exceptions.md R130). What is no instruction is rejected by the host before any command
word is issued (spec/44_commands.md R100, R110); a rejected line leaves the things presented after it, and the next step
goes on with them (DESIGN CHOICE, log entry 13). -/
def step (s : State) : Host.Outcome State Fault Refusal :=
  match s.pending with
  | [] => .next s
  | x :: rest =>
    match Sys2Proof.decode x with
    | .instr i => exec i { s with pending := rest }
    | .reset => .next { s with pending := rest }.resetEvent
    | .reject e => .next ({ s with pending := rest }.reject e)

/-- The state with an instruction of the opcode table presented next: the host issues it (log entry 8). -/
def State.withFetchWord (s : State) (nbits w : Nat) : State :=
  match Sys2Proof.tableInput nbits w with
  | some x => { s with pending := x :: s.pending }
  | none => s

/-- The state with the lines of a program presented next (spec/30_encoding.md R61). -/
def State.withProgram (s : State) (ls : List AsmLine) : State := { s with pending := ls.map .line ++ s.pending }

end Sys2Proof.Machine
end

