-- ==== Sys2Proof/Machine/Transaction.lean ====
section
/-!
DEFINITION. The host procedures of spec/44_commands.md: command words issued one after another, SEND and RECV (R112),
the transaction XACT (R113), the logical operations (R117, R110) and the reading of the payload (R115, R116). The
transport is outside the block (spec/00_scope.md R5): what one transaction sees of it is an argument.
-/

namespace Sys2Proof.Machine

/-- Issue one command word: its response and the state after it; nothing if the machine stops. -/
def issueWord (w : CmdWord) (s : State) : Option (Response × State) :=
  match exec (Sys2Proof.decodeCmd w) s with
  | .next t => some (t.port, t)
  | .fault _ => none
  | .refused _ => none

/-- Issue command words one after another (spec/20_memory.md R44): their responses, oldest first, and the state after
the last. -/
def runWords : List CmdWord → State → Option (List Response × State)
  | [], s => some ([], s)
  | w :: ws, s =>
    match issueWord w s with
    | none => none
    | some (r, t) =>
      match runWords ws t with
      | none => none
      | some (rs, u) => some (r :: rs, u)

/-- What one transaction sees of the transport: whether T.write succeeds, and what T.read(6) returns, nothing if it
fails. The bytes are a free input (spec/42_parser.md R86). -/
structure Transport where
  writeOk : Bool
  reply : Option (List Byte)
  deriving DecidableEq, Repr

/-- The result of XACT (R113). -/
inductive XactResult where
  | ok (a b : Byte)
  | error (e : HostError)
  deriving DecidableEq, Repr

/-- What a transaction gives: its result, the bytes passed to T.write if it was called, and the state after it. -/
structure XactOut where
  result : XactResult
  written : Option (List Byte)
  final : State
  deriving DecidableEq, Repr

/-- The words that load a request: TXNEW and one TXPAR a parameter (R113). -/
def loadWords (o : Byte) (p : List Byte) : List CmdWord :=
  Sys2Proof.cmdWord 0x4 o :: p.map (Sys2Proof.cmdWord 0x5)

/-- SEND (R112): twelve TXPOP, their bytes in order. -/
def send (s : State) : Option (List Byte × State) :=
  match runWords (List.replicate 12 (Sys2Proof.cmdWord 0x7 0)) s with
  | some (rs, t) => some (rs.map Response.dout, t)
  | none => none

/-- RECV after T.read returned `r` (R112): RXNEW, then every byte in order. -/
def recv (r : List Byte) (s : State) : Option State :=
  match runWords (Sys2Proof.cmdWord 0x8 0 :: r.map (Sys2Proof.cmdWord 0x9)) s with
  | some (_, t) => some t
  | none => none

/-- The second half of XACT: RECV, RXDEC, and the payload (R113). -/
def xactReceive (w : List Byte) (reply : List Byte) (s : State) : Option XactOut :=
  match recv reply s with
  | none => none
  | some s1 =>
    match issueWord (Sys2Proof.cmdWord 0xA 0) s1 with
    | none => none
    | some (r, s2) =>
      if r.stat = Cause.short.code then some ⟨.error (.block .short), some w, s2⟩
      else if r.stat = Cause.cksum.code then some ⟨.error (.block .cksum), some w, s2⟩
      else
        match runWords [Sys2Proof.cmdWord 0xB 0, Sys2Proof.cmdWord 0xC 0] s2 with
        | some ([a, b], s3) => some ⟨.ok a.dout b.dout, some w, s3⟩
        | _ => none

/-- XACT (R113): one transaction with order byte `o` and parameters `p`; it stops at the first error and writes nothing
before the request was checked. -/
def xact (T : Transport) (o : Byte) (p : List Byte) (s : State) : Option XactOut :=
  match issueWord (Sys2Proof.cmdWord 0x4 o) s with
  | none => none
  | some (r0, s0) =>
    if r0.stat = Cause.illord.code then some ⟨.error (.block .illord), none, s0⟩
    else
      match runWords (p.map (Sys2Proof.cmdWord 0x5)) s0 with
      | none => none
      | some (_, s1) =>
        match issueWord (Sys2Proof.cmdWord 0x6 0) s1 with
        | none => none
        | some (r, s2) =>
          if r.stat = Cause.ipc.code then some ⟨.error (.block .ipc), none, s2⟩
          else
            match send s2 with
            | none => none
            | some (w, s3) =>
              if T.writeOk = false then some ⟨.error .transportFailure, some w, s3⟩
              else
                match T.reply with
                | none => some ⟨.error .transportFailure, some w, s3⟩
                | some reply => xactReceive w reply s3

/-- The five control commands (R110). -/
inductive Command where
  | forward
  | back
  | left
  | right
  | catchPrize
  deriving DecidableEq, Repr

/-- The command of a name; any other name is UnknownCommand (R110). -/
def readCommand (name : String) : Option Command :=
  if name = "FORWARD" then some .forward
  else if name = "BACK" then some .back
  else if name = "LEFT" then some .left
  else if name = "RIGHT" then some .right
  else if name = "CATCH" then some .catchPrize
  else none

/-- The parameters of a control command (the table before R105); CATCH has no operand. -/
def commandLayout (c : Command) (moveTime : Int) : Vector Byte 8 :=
  match c with
  | .forward => layoutForward moveTime
  | .back => layoutBack moveTime
  | .left => layoutLeft moveTime
  | .right => layoutRight moveTime
  | .catchPrize => layoutCatch

/-- The operands of a control command that the host checks (R100). -/
def commandOperands (c : Command) (moveTime : Int) : List Int :=
  match c with
  | .forward => [moveTime]
  | .back => [moveTime]
  | .left => [moveTime]
  | .right => [moveTime]
  | .catchPrize => []

/-- Query status (R117). -/
def queryStatus (T : Transport) (s : State) : Option XactOut :=
  xact T OrderCode.status.byte layoutStatus.toList s

/-- Load configuration (R117) with the layout of R103 if the catch flag is true, of R104 if it is false. -/
def loadConfiguration (T : Transport) (catchFlag : Bool) (smallPower bigPower gameTime : Int) (s : State) :
    Option XactOut :=
  if operandsInRange (if catchFlag then [gameTime] else [smallPower, bigPower, gameTime]) then
    xact T OrderCode.loadConf.byte
      (if catchFlag then layoutLoadconfC (operandByte gameTime)
        else layoutLoadconfN (operandByte smallPower) (operandByte bigPower) (operandByte gameTime)).toList s
  else some ⟨.error (.block .ipc), none, s⟩

/-- Move or control (R117): an unknown command is rejected before any command word is issued (R110), as is an operand
outside 0 to 255 (R100). -/
def moveOrControl (T : Transport) (name : String) (moveTime : Int) (s : State) : Option XactOut :=
  match readCommand name with
  | none => some ⟨.error .unknownCommand, none, s⟩
  | some c =>
    if operandsInRange (commandOperands c moveTime) then
      xact T OrderCode.control.byte (commandLayout c moveTime).toList s
    else some ⟨.error (.block .ipc), none, s⟩

/-- The board status in a Status response (R115). -/
inductive BoardStatus where
  | stIdle
  | stBusy
  | stFixing
  | stError
  | unknownStatus (value : Byte)
  deriving DecidableEq, Repr

/-- The classification of the first payload byte of a Status response (R115); never an error. -/
def boardStatus (a : Byte) : BoardStatus :=
  if a = 1 then .stIdle
  else if a = 2 then .stBusy
  else if a = 3 then .stFixing
  else if a = 4 then .stError
  else .unknownStatus a

/-- The meaning of a payload. -/
inductive Payload where
  | status (state : BoardStatus) (giftCount : Byte)
  | outcome (succeeded reserved : Byte)
  deriving DecidableEq, Repr

/-- How the host reads a payload: by the order code it SENT, not by the echoed byte (R115, R116). -/
def interpret (sent : OrderCode) (a b : Byte) : Payload :=
  match sent with
  | .status => .status (boardStatus a) b
  | .loadConf => .outcome a b
  | .control => .outcome a b

end Sys2Proof.Machine
end

