-- ==== Sys2Proof/Safety.lean ====
section
/-!
DEFINITION. What holds in every state reachable from reset (spec/10_state.md R30), when a run is safe, and when two
states cannot be told apart by a host (R31).
-/

namespace Sys2Proof.Machine

/-- R30 (1): the counters stay in their ranges and bit 7 of ERR reads 0. -/
abbrev Block.CountersInRange (b : Block) : Prop :=
  b.pcnt.toNat ≤ 9 ∧ b.txptr.toNat ≤ 12 ∧ b.rxcnt.toNat ≤ 6 ∧ b.err.getLsbD 7 = false

/-- R30 (2): what READY means. -/
abbrev Block.ReadyHoldsFrame (b : Block) : Prop :=
  b.txst = .ready →
    b.txptr.toNat ≤ 11 ∧ b.pcnt = 8 ∧ isOrderCode b.ord = true ∧ b.txbuf = requestFrame b.ord b.par

/-- R30 (3): what PV means. -/
abbrev Block.PayloadIsValidated (b : Block) : Prop :=
  b.pv = true →
    b.rxcnt = 6 ∧ b.rxbuf[5] = responseSum b.rxbuf ∧ b.p1 = b.rxbuf[3] ∧ b.p2 = b.rxbuf[4]

/-- R30 (4), its first half: in LOAD the order code is legal. -/
abbrev Block.LoadHasOrder (b : Block) : Prop := b.txst = .load → isOrderCode b.ord = true

/-- The invariant of the block (R30). -/
abbrev Block.Inv (b : Block) : Prop :=
  b.CountersInRange ∧ b.ReadyHoldsFrame ∧ b.PayloadIsValidated ∧ b.LoadHasOrder

/-- The invariant of the machine. -/
abbrev State.Inv (s : State) : Prop := s.block.Inv

/-- A step is safe if it does not stop the machine. -/
def Safe (o : Host.Outcome State Fault Refusal) : Prop := ∃ t, o = .next t

/-- Two blocks that agree on everything a later operation can read (R31): all but data cells that are not reachable
any more. -/
structure Block.SameLive (b c : Block) : Prop where
  acc : b.acc = c.acc
  pcnt : b.pcnt = c.pcnt
  txst : b.txst = c.txst
  txptr : b.txptr = c.txptr
  rxcnt : b.rxcnt = c.rxcnt
  pv : b.pv = c.pv
  err : b.err = c.err
  ord : b.txst = .load → b.ord = c.ord
  par : b.txst = .load → ∀ i, i < b.pcnt.toNat → b.par[i]? = c.par[i]?
  txbuf : b.txst = .ready → b.txbuf = c.txbuf
  rxbuf : ∀ i, i < b.rxcnt.toNat → b.rxbuf[i]? = c.rxbuf[i]?
  p1 : b.pv = true → b.p1 = c.p1
  p2 : b.pv = true → b.p2 = c.p2

/-- The next state of an assembled request, written out
(spec/44_commands.md R101): ten successes, the frame in TXBUF, its checksum in ACC. -/
def State.assembledRequest (s : State) (o : Byte) (p : Vector Byte 8) (c : Byte) : State :=
  { s with
    block :=
      { s.block with
        ord := o, par := p, pcnt := 8,
        txbuf := #v[0xFF, 0x55, o, p[0], p[1], p[2], p[3], p[4], p[5], p[6], p[7], c],
        acc := c, txptr := 0, txst := .ready },
    resp := List.replicate 10 ⟨0, 0x00⟩, report := none }

/-- The operand bytes of the words with operation code `op` in a sequence, in order. -/
def operandsOf (op : BitVec 4) (ws : List CmdWord) : List Byte :=
  (ws.filter fun w => Sys2Proof.cmdOp w == op).map Sys2Proof.cmdData

/-- The responses to the words with operation code `op` in a sequence, in order. -/
def answersTo (op : BitVec 4) (ws : List CmdWord) (rs : List Response) : List Response :=
  ((ws.zip rs).filter fun x => Sys2Proof.cmdOp x.1 == op).map Prod.snd

/-- The sequence holds no word with one of the operation codes. -/
def Avoids (ops : List (BitVec 4)) (ws : List CmdWord) : Prop := ∀ w ∈ ws, Sys2Proof.cmdOp w ∉ ops

/-- Which causes an operation can raise: the column 'raised by' of spec/60_exceptions.md R118. The rows that are no
single operation raise nothing of their own. -/
def mayRaise : Instr → List Cause
  | .csclr => []
  | .csadd _ => []
  | .csrd => []
  | .txnew _ => [.illord]
  | .txpar _ => [.seq]
  | .txbuild => [.seq, .ipc]
  | .txpop => [.seq]
  | .rxnew => []
  | .rxpush _ => [.ovr]
  | .rxdec => [.short, .cksum]
  | .rxp1 => [.seq]
  | .rxp2 => [.seq]
  | .errrd => []
  | .errclr => []
  | .reserved0 => [.illop]
  | .reservedF => [.illop]
  | .reqStatus _ => []
  | .reqLoadconf _ => []
  | .reqControl _ => []
  | .rsp _ => []
  | .req _ _ => []
  | .qstatus => []
  | .loadconfC _ => []
  | .loadconfN _ _ _ => []
  | .ctrlForward _ => []
  | .ctrlBack _ => []
  | .ctrlLeft _ => []
  | .ctrlRight _ => []
  | .ctrlCatch => []

end Sys2Proof.Machine
end

