-- ==== Sys2Proof/WellFormed.lean ====
section
/-!
DEFINITION. When an instruction is well formed: every operand of a pseudo-operation lies in 0 to 255
(spec/44_commands.md R100). The operands of the other rows are bytes, so nothing of them can be out of range
(spec/41_assembler.md R81).
-/

namespace Sys2Proof

/-- The range every operand of a pseudo-operation must lie in (R100). -/
def isByte (n : Int) : Bool := decide (0 ≤ n) && decide (n ≤ 255)

/-- The operands of an instruction that the host must check. -/
def Instr.hostOperands : Instr → List Int
  | .csclr => []
  | .csadd _ => []
  | .csrd => []
  | .txnew _ => []
  | .txpar _ => []
  | .txbuild => []
  | .txpop => []
  | .rxnew => []
  | .rxpush _ => []
  | .rxdec => []
  | .rxp1 => []
  | .rxp2 => []
  | .errrd => []
  | .errclr => []
  | .reserved0 => []
  | .reservedF => []
  | .reqStatus _ => []
  | .reqLoadconf _ => []
  | .reqControl _ => []
  | .rsp _ => []
  | .req o ps => o :: ps.toList
  | .qstatus => []
  | .loadconfC g => [g]
  | .loadconfN s b g => [s, b, g]
  | .ctrlForward t => [t]
  | .ctrlBack t => [t]
  | .ctrlLeft t => [t]
  | .ctrlRight t => [t]
  | .ctrlCatch => []

/-- Well formed: every operand the host checks is in 0 to 255. -/
def Instr.wellFormed (i : Instr) : Bool := i.hostOperands.all isByte

end Sys2Proof
end

