-- ==== Sys2Proof/Certificates/Slice0/Obligations.lean ====
section
/-!
DEFINITION. The statements for the provers. Each names the rule of spec/ it formalises. A whole next state is written
out wherever a statement gives an instruction's result, so it is the instruction's frame too: what the record update
does not name is unchanged.
-/

open Sys2Proof Sys2Proof.Machine

/-! ### The checksum generator -/

/-- spec/40_checksum.md R68. -/
def Obligations.CsclrClearsTheAccumulator : Prop :=
  (∀ d : Byte, decodeCmd (0x1#4 ++ d) = .csclr) ∧
    ∀ s : State,
      exec .csclr s = .next { s with block := { s.block with acc := 0x00 }, resp := [⟨0, 0x00⟩], report := none }

/-- spec/40_checksum.md R69: the sum is over the natural numbers, reduced modulo 256. -/
def Obligations.CsaddAddsModulo256 : Prop :=
  (∀ b : Byte, decodeCmd (0x2#4 ++ b) = .csadd b) ∧
    ∀ (s : State) (b : Byte),
      exec (.csadd b) s =
        .next
          { s with
            block := { s.block with acc := BitVec.ofNat 8 ((s.block.acc.toNat + b.toNat) % 256) },
            resp := [⟨0, 0x00⟩], report := none }

/-- spec/40_checksum.md R70, with what it returns after reset, after a successful TXBUILD and after an RXDEC that found
six bytes. -/
def Obligations.CsrdReadsTheAccumulator : Prop :=
  (∀ d : Byte, decodeCmd (0x3#4 ++ d) = .csrd) ∧
    (∀ s : State, exec .csrd s = .next { s with resp := [⟨0, s.block.acc⟩], report := none }) ∧
    exec .csrd State.reset = .next { State.reset with resp := [⟨0, 0x00⟩] } ∧
    (∀ s t : State, exec .txbuild s = .next t → t.port.stat = 0 →
      exec .csrd t = .next { t with resp := [⟨0, t.block.txbuf[11]⟩], report := none }) ∧
    (∀ s t : State, 6 ≤ s.block.rxcnt.toNat → exec .rxdec s = .next t →
      exec .csrd t = .next { t with resp := [⟨0, checksum (s.block.rxbuf.toList.take 5)⟩], report := none })

/-- spec/40_checksum.md R67, (a) to (f). -/
def Obligations.ChecksumLaws : Prop :=
  (∀ s t : List Byte, s.Perm t → checksum s = checksum t) ∧
    (∀ s t : List Byte, (checksum (s ++ t)).toNat = ((checksum s).toNat + (checksum t).toNat) % 256) ∧
    (∀ b : Byte, checksum [b] = b) ∧
    (∀ s : List Byte, checksum (s ++ [0x00]) = checksum s) ∧
    (∀ s : List Byte, (checksum (s ++ [checksum s])).toNat = 2 * (checksum s).toNat % 256) ∧
    (∀ b : Byte, checksum (List.replicate 256 b) = 0x00) ∧
    checksum (List.replicate 257 0xFF) = 0xFF

/-- spec/40_checksum.md R71: a stream of CSADD computes the checksum, whatever else but CSCLR, TXBUILD and RXDEC is
interleaved. -/
def Obligations.StreamComputesTheChecksum : Prop :=
  ∀ (s : State) (ws : List CmdWord), s.Inv → Avoids [0x1, 0x6, 0xA] ws →
    (∃ rs t, runWords ws s = some (rs, t) ∧
      t.block.acc = BitVec.ofNat 8 ((s.block.acc.toNat + (checksum (operandsOf 0x2 ws)).toNat) % 256)) ∧
    ∀ d d' : Byte, ∃ rs t, runWords ((0x1#4 ++ d) :: ws ++ [0x3#4 ++ d']) s = some (rs, t) ∧
      rs.getLast? = some ⟨0, checksum (operandsOf 0x2 ws)⟩

/-! ### The frame assembler -/

/-- spec/41_assembler.md R75. -/
def Obligations.TxnewStartsARequestOrIsIllegal : Prop :=
  (∀ o : Byte, decodeCmd (0x4#4 ++ o) = .txnew o) ∧
    (∀ (s : State) (o : Byte), o = 0xC0 ∨ o = 0xC1 ∨ o = 0xC2 →
      exec (.txnew o) s =
        .next
          { s with
            block := { s.block with ord := o, pcnt := 0, txst := .load }, resp := [⟨0, 0x00⟩], report := none }) ∧
    (∀ (s : State) (o : Byte), o ≠ 0xC0 → o ≠ 0xC1 → o ≠ 0xC2 →
      exec (.txnew o) s =
        .next
          { s with
            block := { s.block with txst := .idle, err := s.block.err ||| 0x08 }, resp := [⟨4, 0x00⟩],
            report := none })

/-- spec/41_assembler.md R76. -/
def Obligations.TxparPushesAParameter : Prop :=
  (∀ b : Byte, decodeCmd (0x5#4 ++ b) = .txpar b) ∧
    (∀ (s : State) (b : Byte), s.block.txst ≠ .load →
      exec (.txpar b) s =
        .next { s with block := { s.block with err := s.block.err ||| 0x10 }, resp := [⟨5, 0x00⟩], report := none }) ∧
    (∀ (s : State) (b : Byte), s.block.txst = .load →
      exec (.txpar b) s =
        .next
          { s with
            block :=
              { s.block with
                par := if h : s.block.pcnt.toNat < 8 then s.block.par.set s.block.pcnt.toNat b h else s.block.par,
                pcnt := BitVec.ofNat 4 (min (s.block.pcnt.toNat + 1) 9) },
            resp := [⟨0, 0x00⟩], report := none })

/-- spec/41_assembler.md R77: the frame and its checksum written out. -/
def Obligations.TxbuildChecksAndBuildsTheFrame : Prop :=
  (∀ d : Byte, decodeCmd (0x6#4 ++ d) = .txbuild) ∧
    (∀ s : State, s.block.txst ≠ .load →
      exec .txbuild s =
        .next { s with block := { s.block with err := s.block.err ||| 0x10 }, resp := [⟨5, 0x00⟩], report := none }) ∧
    (∀ s : State, s.block.txst = .load → s.block.pcnt ≠ 8 →
      exec .txbuild s =
        .next
          { s with
            block := { s.block with txst := .idle, err := s.block.err ||| 0x01 }, resp := [⟨1, 0x00⟩],
            report := none }) ∧
    (∀ (s : State) (o : Byte) (p : Vector Byte 8) (c : Byte),
      s.block.txst = .load → s.block.pcnt = 8 → s.block.ord = o → s.block.par = p →
      c.toNat = (0xFF + 0x55 + o.toNat + p[0].toNat + p[1].toNat + p[2].toNat + p[3].toNat + p[4].toNat + p[5].toNat
        + p[6].toNat + p[7].toNat) % 256 →
      exec .txbuild s =
        .next
          { s with
            block :=
              { s.block with
                txbuf := #v[0xFF, 0x55, o, p[0], p[1], p[2], p[3], p[4], p[5], p[6], p[7], c],
                acc := c, txptr := 0, txst := .ready },
            resp := [⟨0, 0x00⟩], report := none })

/-- spec/41_assembler.md R78; TXPTR is 0 to 11 in READY by spec/10_state.md R20. -/
def Obligations.TxpopDeliversTheNextByte : Prop :=
  (∀ d : Byte, decodeCmd (0x7#4 ++ d) = .txpop) ∧
    (∀ s : State, s.block.txst ≠ .ready →
      exec .txpop s =
        .next { s with block := { s.block with err := s.block.err ||| 0x10 }, resp := [⟨5, 0x00⟩], report := none }) ∧
    (∀ (s : State) (h : s.block.txptr.toNat < 12), s.block.txst = .ready →
      exec .txpop s =
        .next
          { s with
            block :=
              { s.block with
                txptr := s.block.txptr + 1,
                txst := if s.block.txptr.toNat + 1 = 12 then .idle else .ready },
            resp := [⟨0, s.block.txbuf[s.block.txptr.toNat]⟩], report := none })

/-- In states no run reaches (spec/20_memory.md R34) an index can fall outside TXBUF or RXBUF; there the machine stops,
which is the model's choice (log entry 7). -/
def Obligations.IndexOutsideABufferStops : Prop :=
  (∀ s : State, s.block.txst = .ready → 12 ≤ s.block.txptr.toNat → exec .txpop s = .fault .txIndexOutOfRange) ∧
    (∀ (s : State) (b : Byte), s.block.rxcnt = 7 → exec (.rxpush b) s = .fault .rxIndexOutOfRange) ∧
    (∀ (w : CmdWord) (s : State) (f : Fault), exec (decodeCmd w) s = .fault f →
      s.block.txst = .ready ∧ 12 ≤ s.block.txptr.toNat ∨ s.block.rxcnt = 7)

/-- spec/41_assembler.md R74, the whole table, its last row included. -/
def Obligations.AssemblerTransitionTable : Prop :=
  (∀ (w : CmdWord) (s t : State), exec (decodeCmd w) s = .next t →
    t.block.txst =
      match decodeCmd w, s.block.txst with
      | .txnew o, _ => if o = 0xC0 ∨ o = 0xC1 ∨ o = 0xC2 then .load else .idle
      | .txbuild, .load => if s.block.pcnt = 8 then .ready else .idle
      | .txpop, .ready => if s.block.txptr = 11 then .idle else .ready
      | _, st => st) ∧
    ∀ s : State, s.resetEvent.block.txst = .idle

/-- spec/41_assembler.md R80: READY is entered only by a TXBUILD that found exactly eight parameters and a legal order
code, and TXPOP delivers a byte only in READY. -/
def Obligations.OnlyABuiltFrameIsDelivered : Prop :=
  (∀ (w : CmdWord) (s t : State), s.Inv → exec (decodeCmd w) s = .next t → s.block.txst ≠ .ready →
    t.block.txst = .ready →
    decodeCmd w = .txbuild ∧ s.block.txst = .load ∧ s.block.pcnt = 8 ∧
      (s.block.ord = 0xC0 ∨ s.block.ord = 0xC1 ∨ s.block.ord = 0xC2)) ∧
    ∀ s t : State, exec .txpop s = .next t → t.port.stat = 0 → s.block.txst = .ready

/-- spec/41_assembler.md R82 and spec/10_state.md R16: the count saturates at 9 and the first eight bytes are kept,
whatever else is interleaved. -/
def Obligations.ParameterCountSaturates : Prop :=
  ∀ (s : State) (o : OrderCode) (ws : List CmdWord), s.Inv → Avoids [0x4, 0x6] ws →
    ∃ rs t, runWords ((0x4#4 ++ o.byte) :: ws) s = some (rs, t) ∧
      t.block.txst = .load ∧ t.block.ord = o.byte ∧
      t.block.pcnt.toNat = min (operandsOf 0x5 ws).length 9 ∧
      (t.block.pcnt = 8 ↔ (operandsOf 0x5 ws).length = 8) ∧
      ∀ i, i < min (operandsOf 0x5 ws).length 8 → t.block.par[i]? = (operandsOf 0x5 ws)[i]?

/-- spec/41_assembler.md R79, both halves: the operations compute encodeRequest from every state, and the next TXPOPs
return its bytes in order. -/
def Obligations.AssemblerComputesEncodeRequest : Prop :=
  ∀ (s : State) (o : OrderCode) (ws : List CmdWord) (d : Byte), s.Inv → Avoids [0x4, 0x6] ws →
    ∃ rs t, runWords ((0x4#4 ++ o.byte) :: ws ++ [0x6#4 ++ d]) s = some (rs, t) ∧ t.Inv ∧
      match encodeRequest o (operandsOf 0x5 ws) with
      | .ok frame =>
        frame.length = 12 ∧ rs.getLast? = some ⟨0, 0x00⟩ ∧
          ∀ vs : List CmdWord, Avoids [0x4] vs → (operandsOf 0x7 vs).length ≤ 12 →
            ∃ qs u, runWords vs t = some (qs, u) ∧
              answersTo 0x7 vs qs = (frame.take (operandsOf 0x7 vs).length).map fun x => ⟨0, x⟩
      | .error e =>
        e = .ipc ∧ rs.getLast? = some ⟨1, 0x00⟩ ∧
          ∀ vs : List CmdWord, Avoids [0x4] vs →
            ∃ qs u, runWords vs t = some (qs, u) ∧ ∀ r ∈ answersTo 0x7 vs qs, r = ⟨5, 0x00⟩

/-- spec/41_assembler.md R72 and R73: the function's value, and that it is injective. -/
def Obligations.EncodeRequestIsInjective : Prop :=
  (∀ (o : OrderCode) (p : List Byte), p.length ≠ 8 → encodeRequest o p = .error .ipc) ∧
    (∀ (o : OrderCode) (p : List Byte), p.length = 8 →
      ∃ c : Byte, encodeRequest o p = .ok ([0xFF, 0x55, o.byte] ++ p ++ [c]) ∧
        c.toNat = (84 + o.byte.toNat + (p.map BitVec.toNat).sum) % 256) ∧
    ∀ (o o' : OrderCode) (p p' f : List Byte), encodeRequest o p = .ok f → encodeRequest o' p' = .ok f →
      o = o' ∧ p = p'

/-! ### The frame parser -/

/-- spec/42_parser.md R87. -/
def Obligations.RxnewClearsTheParser : Prop :=
  (∀ d : Byte, decodeCmd (0x8#4 ++ d) = .rxnew) ∧
    ∀ s : State,
      exec .rxnew s =
        .next { s with block := { s.block with rxcnt := 0, pv := false }, resp := [⟨0, 0x00⟩], report := none }

/-- spec/42_parser.md R88; RXCNT is at most 6 by spec/10_state.md R22. -/
def Obligations.RxpushStoresTheNextByte : Prop :=
  (∀ b : Byte, decodeCmd (0x9#4 ++ b) = .rxpush b) ∧
    (∀ (s : State) (b : Byte), s.block.rxcnt = 6 →
      exec (.rxpush b) s =
        .next { s with block := { s.block with err := s.block.err ||| 0x20 }, resp := [⟨6, 0x00⟩], report := none }) ∧
    (∀ (s : State) (b : Byte) (h : s.block.rxcnt.toNat < 6),
      exec (.rxpush b) s =
        .next
          { s with
            block :=
              { s.block with rxbuf := s.block.rxbuf.set s.block.rxcnt.toNat b, rxcnt := s.block.rxcnt + 1 },
            resp := [⟨0, 0x00⟩], report := none })

/-- spec/42_parser.md R89: length before checksum, and what each outcome leaves. -/
def Obligations.RxdecValidatesTheFrame : Prop :=
  (∀ d : Byte, decodeCmd (0xA#4 ++ d) = .rxdec) ∧
    (∀ s : State, s.block.rxcnt.toNat < 6 →
      exec .rxdec s =
        .next
          { s with
            block := { s.block with pv := false, err := s.block.err ||| 0x02 }, resp := [⟨2, 0x00⟩],
            report := none }) ∧
    ∀ (s : State) (r : Vector Byte 6) (c : Byte), 6 ≤ s.block.rxcnt.toNat → s.block.rxbuf = r →
      c.toNat = (r[0].toNat + r[1].toNat + r[2].toNat + r[3].toNat + r[4].toNat) % 256 →
      exec .rxdec s =
        if c = r[5] then
          .next
            { s with
              block := { s.block with acc := c, p1 := r[3], p2 := r[4], pv := true }, resp := [⟨0, 0x00⟩],
              report := none }
        else
          .next
            { s with
              block := { s.block with acc := c, pv := false, err := s.block.err ||| 0x04 }, resp := [⟨3, 0x00⟩],
              report := none }

/-- spec/42_parser.md R90, R91. -/
def Obligations.PayloadIsReadOnlyWhenValid : Prop :=
  (∀ d : Byte, decodeCmd (0xB#4 ++ d) = .rxp1 ∧ decodeCmd (0xC#4 ++ d) = .rxp2) ∧
    (∀ s : State, s.block.pv = true →
      exec .rxp1 s = .next { s with resp := [⟨0, s.block.p1⟩], report := none } ∧
        exec .rxp2 s = .next { s with resp := [⟨0, s.block.p2⟩], report := none }) ∧
    ∀ s : State, s.block.pv = false →
      exec .rxp1 s =
          .next
            { s with block := { s.block with err := s.block.err ||| 0x10 }, resp := [⟨5, 0x00⟩], report := none } ∧
        exec .rxp2 s =
          .next
            { s with block := { s.block with err := s.block.err ||| 0x10 }, resp := [⟨5, 0x00⟩], report := none }

/-- spec/42_parser.md R92: the operations compute decodeResponse from every state, whatever else is interleaved. -/
def Obligations.ParserComputesDecodeResponse : Prop :=
  ∀ (s : State) (ws : List CmdWord) (d d' : Byte), s.Inv → Avoids [0x8, 0xA] ws → (operandsOf 0x9 ws).length ≤ 6 →
    ∃ rs t, runWords ((0x8#4 ++ d) :: ws ++ [0xA#4 ++ d']) s = some (rs, t) ∧ t.Inv ∧
      ∀ vs : List CmdWord, Avoids [0x8, 0x9, 0xA] vs →
        ∃ qs u, runWords vs t = some (qs, u) ∧
          match decodeResponse (operandsOf 0x9 ws) with
          | .ok (a, b) =>
            rs.getLast? = some ⟨0, 0x00⟩ ∧ (∀ r ∈ answersTo 0xB vs qs, r = ⟨0, a⟩) ∧
              ∀ r ∈ answersTo 0xC vs qs, r = ⟨0, b⟩
          | .error e =>
            (e = .short ∨ e = .cksum) ∧ rs.getLast? = some ⟨e.code, 0x00⟩ ∧
              (∀ r ∈ answersTo 0xB vs qs, r = ⟨5, 0x00⟩) ∧ ∀ r ∈ answersTo 0xC vs qs, r = ⟨5, 0x00⟩

/-- spec/10_state.md R21, R22 and R30 (5): the bytes pushed since RXNEW, in order, at most six. -/
def Obligations.ReceivedBytesAreHeldInOrder : Prop :=
  ∀ (s : State) (ws : List CmdWord) (d : Byte), s.Inv → Avoids [0x8] ws →
    ∃ rs t, runWords ((0x8#4 ++ d) :: ws) s = some (rs, t) ∧
      t.block.rxcnt.toNat = min (operandsOf 0x9 ws).length 6 ∧
      ∀ i, i < min (operandsOf 0x9 ws).length 6 → t.block.rxbuf[i]? = (operandsOf 0x9 ws)[i]?

/-- spec/42_parser.md R93: a response whose checksum a conformant board computed decodes to its payload. The second
clause says so of the row RSP (R92); that executing that row is taking the six bytes in and judging them is the model's
choice (log entry 5). -/
def Obligations.ConformantResponseRoundTrips : Prop :=
  (∀ o a b : Byte,
    decodeResponse [0xFF, 0x55, o, a, b, checksum [0xFF, 0x55, o, a, b]] = .ok (a, b)) ∧
    ∀ (s : State) (o a b : Byte),
      ∃ t, exec (.rsp #v[0xFF, 0x55, o, a, b, checksum [0xFF, 0x55, o, a, b]]) s = .next t ∧
        t.block.pv = true ∧ t.block.p1 = a ∧ t.block.p2 = b ∧ t.block.err = s.block.err

/-- spec/42_parser.md R94, (a) to (e): what the checksum gate catches and what it does not: one altered byte is caught;
alterations whose effects cancel modulo 256, a reordering of bytes 0 to 4 and a wrong header or echo with a consistent
checksum pass; with the rule's own frames. -/
def Obligations.ChecksumGateCatchesOneByte : Prop :=
  (∀ (r r' : Vector Byte 6) (i : Nat) (h : i < 6) (x : Byte × Byte), decodeResponse r.toList = .ok x →
    r'[i] ≠ r[i] → (∀ (j : Nat) (hj : j < 6), j ≠ i → r'[j] = r[j]) →
    decodeResponse r'.toList = .error .cksum) ∧
    (∀ a0 a1 a2 a3 a4 c b0 b1 b2 b3 b4 d : Byte,
      checksum [b0, b1, b2, b3, b4] - d = checksum [a0, a1, a2, a3, a4] - c →
      decodeResponse [a0, a1, a2, a3, a4, c] = .ok (a3, a4) →
      decodeResponse [b0, b1, b2, b3, b4, d] = .ok (b3, b4)) ∧
    decodeResponse [0xFF, 0x55, 0xC0, 0x01, 0x03, 0x18] = .ok (0x01, 0x03) ∧
    decodeResponse [0xFF, 0x55, 0xC0, 0x02, 0x02, 0x18] = .ok (0x02, 0x02) ∧
    (∀ a0 a1 a2 a3 a4 b0 b1 b2 b3 b4 c : Byte, [a0, a1, a2, a3, a4].Perm [b0, b1, b2, b3, b4] →
      decodeResponse [a0, a1, a2, a3, a4, c] = .ok (a3, a4) →
      decodeResponse [b0, b1, b2, b3, b4, c] = .ok (b3, b4)) ∧
    decodeResponse [0xFF, 0x55, 0xC0, 0x03, 0x01, 0x18] = .ok (0x03, 0x01) ∧
    decodeResponse [0x00, 0x00, 0x00, 0x00, 0x00, 0x00] = .ok (0x00, 0x00) ∧
    (∀ h0 h1 o a b : Byte, decodeResponse [h0, h1, o, a, b, checksum [h0, h1, o, a, b]] = .ok (a, b)) ∧
    decodeResponse [0x00, 0x00, 0x00, 0x07, 0x09, 0x10] = .ok (0x07, 0x09)

/-- spec/20_memory.md R41: issuing RXDEC twice in a row gives the same response and the same state as once. -/
def Obligations.RxdecIsIdempotent : Prop :=
  ∀ s t : State, exec .rxdec s = .next t → exec .rxdec t = .next t

/-- spec/70_reset_and_hazards.md R140: with a validated frame held and no RXNEW, every byte of the next response is
refused and RXDEC validates the old frame again. -/
def Obligations.MissingRxnewDeliversAStalePayload : Prop :=
  ∀ (s : State) (bs : List Byte), s.Inv → s.block.pv = true →
    ∃ rs t, runWords (bs.map (fun x => 0x9#4 ++ x) ++ [0xA00, 0xB00, 0xC00]) s = some (rs, t) ∧
      rs = List.replicate bs.length ⟨6, 0x00⟩ ++ [⟨0, 0x00⟩, ⟨0, s.block.p1⟩, ⟨0, s.block.p2⟩]

/-! ### Status and errors -/

/-- spec/43_system.md R96. -/
def Obligations.ErrrdReadsTheFlags : Prop :=
  (∀ d : Byte, decodeCmd (0xD#4 ++ d) = .errrd) ∧
    (∀ s : State, exec .errrd s = .next { s with resp := [⟨0, s.block.err⟩], report := none }) ∧
    ∀ s t : State, s.Inv → exec .errrd s = .next t → t.port.dout.getLsbD 7 = false

/-- spec/43_system.md R97. -/
def Obligations.ErrclrClearsTheFlags : Prop :=
  (∀ d : Byte, decodeCmd (0xE#4 ++ d) = .errclr) ∧
    ∀ s : State,
      exec .errclr s = .next { s with block := { s.block with err := 0x00 }, resp := [⟨0, 0x00⟩], report := none }

/-- spec/43_system.md R98, spec/30_encoding.md R51. -/
def Obligations.ReservedCodesRaiseIllop : Prop :=
  (∀ d : Byte, decodeCmd (0x0#4 ++ d) = .reserved0 ∧ decodeCmd (0xF#4 ++ d) = .reservedF) ∧
    ∀ s : State,
      exec .reserved0 s =
          .next
            { s with block := { s.block with err := s.block.err ||| 0x40 }, resp := [⟨7, 0x00⟩], report := none } ∧
        exec .reservedF s =
          .next
            { s with block := { s.block with err := s.block.err ||| 0x40 }, resp := [⟨7, 0x00⟩], report := none }

/-- spec/60_exceptions.md R118, R124, R125: an operation succeeds and sets no flag, or answers with the code of a cause
its row of R118 names and 0x00 as data, and sets exactly that flag. -/
def Obligations.ErrorsAreReportedPrecisely : Prop :=
  ∀ (w : CmdWord) (s t : State), exec (decodeCmd w) s = .next t →
    ∃ r, t.resp = [r] ∧
      (r.stat = 0 ∧ (t.block.err = s.block.err ∨ decodeCmd w = .errclr ∧ t.block.err = 0x00) ∨
        ∃ c ∈ mayRaise (decodeCmd w), r = ⟨c.code, 0x00⟩ ∧ 1 ≤ c.code.toNat ∧ c.code.toNat ≤ 7 ∧
          ∀ k, t.block.err.getLsbD k = (s.block.err.getLsbD k || decide (k + 1 = c.code.toNat)))

/-- spec/60_exceptions.md R128, R129: only ERRCLR clears a flag, and no operation but ERRRD looks at the flags. -/
def Obligations.FlagsAreStickyAndNeverTested : Prop :=
  (∀ (w : CmdWord) (s t : State), exec (decodeCmd w) s = .next t → decodeCmd w ≠ .errclr →
    ∀ k, s.block.err.getLsbD k = true → t.block.err.getLsbD k = true) ∧
    ∀ (w : CmdWord) (s t : State) (e : Byte), exec (decodeCmd w) s = .next t → decodeCmd w ≠ .errrd →
      ∃ t', exec (decodeCmd w) { s with block := { s.block with err := e } } = .next t' ∧ t'.resp = t.resp ∧
        { t'.block with err := 0x00 } = { t.block with err := 0x00 }

/-- spec/10_state.md R29, the columns of the access matrix: which operations may change which element. -/
def Obligations.AccessMatrixWrites : Prop :=
  ∀ (w : CmdWord) (s t : State), exec (decodeCmd w) s = .next t →
    (cmdOp w ∉ [0x1, 0x2, 0x6, 0xA] → t.block.acc = s.block.acc) ∧
      (cmdOp w ∉ [0x4] → t.block.ord = s.block.ord) ∧
      (cmdOp w ∉ [0x5] → t.block.par = s.block.par) ∧
      (cmdOp w ∉ [0x4, 0x5] → t.block.pcnt = s.block.pcnt) ∧
      (cmdOp w ∉ [0x6] → t.block.txbuf = s.block.txbuf) ∧
      (cmdOp w ∉ [0x4, 0x6, 0x7] → t.block.txst = s.block.txst) ∧
      (cmdOp w ∉ [0x6, 0x7] → t.block.txptr = s.block.txptr) ∧
      (cmdOp w ∉ [0x9] → t.block.rxbuf = s.block.rxbuf) ∧
      (cmdOp w ∉ [0x8, 0x9] → t.block.rxcnt = s.block.rxcnt) ∧
      (cmdOp w ∉ [0xA] → t.block.p1 = s.block.p1 ∧ t.block.p2 = s.block.p2) ∧
      (cmdOp w ∉ [0x8, 0xA] → t.block.pv = s.block.pv) ∧
      (cmdOp w ∉ [0x0, 0x4, 0x5, 0x6, 0x7, 0x9, 0xA, 0xB, 0xC, 0xE, 0xF] → t.block.err = s.block.err) ∧
      t.pending = s.pending ∧ t.freeCtr = s.freeCtr

/-- spec/10_state.md R29: the parser's operations neither read nor write the assembler's elements, and the assembler's
neither read nor write the parser's; they share ACC and ERR only. -/
def Obligations.AssemblerAndParserShareNothing : Prop :=
  (∀ (w : CmdWord) (s t u : State), cmdOp w ∈ [0x8, 0x9, 0xA, 0xB, 0xC] →
    s.block.rxbuf = u.block.rxbuf → s.block.rxcnt = u.block.rxcnt → s.block.p1 = u.block.p1 →
    s.block.p2 = u.block.p2 → s.block.pv = u.block.pv → exec (decodeCmd w) s = .next t →
    ∃ v, exec (decodeCmd w) u = .next v ∧ v.resp = t.resp ∧ v.block.rxbuf = t.block.rxbuf ∧
      v.block.rxcnt = t.block.rxcnt ∧ v.block.p1 = t.block.p1 ∧ v.block.p2 = t.block.p2 ∧
      v.block.pv = t.block.pv) ∧
    ∀ (w : CmdWord) (s t u : State), cmdOp w ∈ [0x4, 0x5, 0x6, 0x7] →
      s.block.ord = u.block.ord → s.block.par = u.block.par → s.block.pcnt = u.block.pcnt →
      s.block.txbuf = u.block.txbuf → s.block.txst = u.block.txst → s.block.txptr = u.block.txptr →
      exec (decodeCmd w) s = .next t →
      ∃ v, exec (decodeCmd w) u = .next v ∧ v.resp = t.resp ∧ v.block.ord = t.block.ord ∧
        v.block.par = t.block.par ∧ v.block.pcnt = t.block.pcnt ∧ v.block.txbuf = t.block.txbuf ∧
        v.block.txst = t.block.txst ∧ v.block.txptr = t.block.txptr

/-! ### Frames and pseudo-operations -/

/-- The rows REQ.STATUS, REQ.LOADCONF, REQ.CONTROL (spec/41_assembler.md R72, R79): the frame of encodeRequest is built
and its twelve bytes leave the block in order. That one step does both is the model's choice (log entry 5). -/
def Obligations.RequestFrameRowsSendTheFrame : Prop :=
  ∀ (s : State) (p : Vector Byte 8) (o : OrderCode) (i : Instr),
    (o, i) ∈ [(.status, .reqStatus p), (.loadConf, .reqLoadconf p), (.control, .reqControl p)] →
    ∃ (f : Vector Byte 12), encodeRequest o p.toList = .ok f.toList ∧
      exec i s =
        .next
          { s with
            block :=
              { s.block with
                ord := o.byte, par := p, pcnt := 8, txbuf := f, acc := f[11], txptr := 12, txst := .idle },
            resp := List.replicate 10 ⟨0, 0x00⟩ ++ f.toList.map fun x => ⟨0, x⟩, report := none }

/-- The row RSP (spec/42_parser.md R83, R92): the six bytes are taken in and judged as decodeResponse says. That one
step does it all is the model's choice (log entry 5). -/
def Obligations.ResponseFrameRowIsDecodeResponse : Prop :=
  ∀ (s : State) (r : Vector Byte 6),
    (∀ a b : Byte, decodeResponse r.toList = .ok (a, b) →
      exec (.rsp r) s =
        .next
          { s with
            block := { s.block with rxbuf := r, rxcnt := 6, acc := r[5], p1 := a, p2 := b, pv := true },
            resp := List.replicate 8 ⟨0, 0x00⟩, report := none }) ∧
      ∀ e : Cause, decodeResponse r.toList = .error e →
        e = .cksum ∧
          exec (.rsp r) s =
            .next
              { s with
                block :=
                  { s.block with
                    rxbuf := r, rxcnt := 6, acc := checksum (r.toList.take 5), pv := false,
                    err := s.block.err ||| 0x04 },
                resp := List.replicate 7 ⟨0, 0x00⟩ ++ [⟨3, 0x00⟩], report := none }

/-- spec/44_commands.md R101, the illegal order included: ILLORD and then SEQ nine times. -/
def Obligations.ReqAssemblesAnyRequest : Prop :=
  (∀ (s : State) (o c : Byte) (p : Vector Byte 8), o = 0xC0 ∨ o = 0xC1 ∨ o = 0xC2 →
    c.toNat = (84 + o.toNat + (p.toList.map BitVec.toNat).sum) % 256 →
    exec (.req o.toNat (p.map fun x => (x.toNat : Int))) s =
      .next
        { s with
          block :=
            { s.block with
              ord := o, par := p, pcnt := 8,
              txbuf := #v[0xFF, 0x55, o, p[0], p[1], p[2], p[3], p[4], p[5], p[6], p[7], c],
              acc := c, txptr := 0, txst := .ready },
          resp := List.replicate 10 ⟨0, 0x00⟩, report := none }) ∧
    ∀ (s : State) (o : Byte) (p : Vector Byte 8), o ≠ 0xC0 → o ≠ 0xC1 → o ≠ 0xC2 →
      exec (.req o.toNat (p.map fun x => (x.toNat : Int))) s =
        .next
          { s with
            block := { s.block with txst := .idle, err := s.block.err ||| 0x18 },
            resp := ⟨4, 0x00⟩ :: List.replicate 9 ⟨5, 0x00⟩, report := none }

/-- spec/44_commands.md R102. -/
def Obligations.QstatusAssemblesTheStatusFrame : Prop :=
  ∀ s : State, exec .qstatus s = .next (s.assembledRequest 0xC0 #v[0, 0, 0, 0, 0, 0, 0, 0] 0x14)

/-- spec/44_commands.md R103, R104: both layouts, and that the catch flag is not recoverable from the frame. -/
def Obligations.LoadconfAssemblesItsLayouts : Prop :=
  (∀ (s : State) (g c : Byte), c.toNat = (109 + g.toNat) % 256 →
    exec (.loadconfC g.toNat) s = .next (s.assembledRequest 0xC1 #v[100, 100, 100, 100, 100, 100, g, 0] c)) ∧
    (∀ (s : State) (sp bp g c : Byte), c.toNat = (165 + sp.toNat + bp.toNat + g.toNat) % 256 →
      exec (.loadconfN sp.toNat bp.toNat g.toNat) s =
        .next (s.assembledRequest 0xC1 #v[100, 100, 100, sp, bp, 100, g, 0] c)) ∧
    ∀ (s : State) (g : Byte), exec (.loadconfN 100 100 g.toNat) s = exec (.loadconfC g.toNat) s

/-- spec/44_commands.md R105 to R109: the five control commands. -/
def Obligations.ControlCommandsAssembleTheirLayouts : Prop :=
  (∀ (s : State) (t c : Byte), c.toNat = (22 + t.toNat) % 256 →
    exec (.ctrlForward t.toNat) s = .next (s.assembledRequest 0xC2 #v[t, 0, 0, 0, 0, 0, 0, 0] c) ∧
      exec (.ctrlLeft t.toNat) s = .next (s.assembledRequest 0xC2 #v[0, t, 0, 0, 0, 0, 0, 0] c)) ∧
    (∀ (s : State) (t n c : Byte), n.toNat = 255 - t.toNat → c.toNat = (22 + n.toNat) % 256 →
      exec (.ctrlBack t.toNat) s = .next (s.assembledRequest 0xC2 #v[n, 0, 0, 0, 0, 0, 0, 0] c) ∧
        exec (.ctrlRight t.toNat) s = .next (s.assembledRequest 0xC2 #v[0, n, 0, 0, 0, 0, 0, 0] c)) ∧
    ∀ s : State, exec .ctrlCatch s = .next (s.assembledRequest 0xC2 #v[0, 0, 1, 0, 0, 0, 0, 0] 0x17)

/-- spec/44_commands.md R111 and spec/30_encoding.md R63: the negative displacement is the bitwise complement, differs
from the positive one, and different commands give the same frame. -/
def Obligations.NegativeDisplacementIsComplement : Prop :=
  (∀ t : Byte, operandByte (negated t.toNat) = ~~~t ∧ operandByte (negated t.toNat) ≠ t) ∧
    (∀ t : Byte, t.toNat ≤ 127 ↔ (operandByte (negated t.toNat)).getLsbD 7 = true) ∧
    ∀ (s : State) (t : Int), 0 ≤ t → t ≤ 255 →
      exec (.ctrlForward t) s = exec (.ctrlBack (255 - t)) s ∧ exec (.ctrlLeft t) s = exec (.ctrlRight (255 - t)) s

/-- spec/44_commands.md R100, spec/41_assembler.md R81: an operand outside 0 to 255 is rejected before any command word
is issued, so the block and its responses do not change; the class of the rejection is InvalidParameterCount. That it is
a next state with a report is the model's choice (log entries 1 and 10). -/
def Obligations.OutOfRangeOperandIssuesNothing : Prop :=
  ∀ (i : Instr) (s : State), i.wellFormed = false →
    encodeWords i = [] ∧ exec i s = .next { s with report := some (.block .ipc) }

/-- spec/44_commands.md R100: every well-formed instruction of the table, in one step, is the run of the command words
it expands to, one after another: same block, same responses; it stops exactly where one of them stops. The single step
is the model's choice (log entry 4), and so are the words of the frame rows (log entry 5). -/
def Obligations.EveryRowIsTheRunOfItsWords : Prop :=
  ∀ (i : Instr) (s : State), i.wellFormed = true →
    match runWords (encodeWords i) s with
    | some (rs, t) => exec i s = .next { t with resp := rs }
    | none => ∃ f, exec i s = .fault f

/-! ### The transaction -/

/-- spec/44_commands.md R113: XACT returns what execute returns, and writes encodeRequest of its arguments or
nothing. That one transaction's transport is an argument is the model's choice (log entry 12). -/
def Obligations.XactComputesExecute : Prop :=
  ∀ (T : Transport) (o : OrderCode) (p : List Byte) (s : State), s.Inv →
    (∀ r, T.reply = some r → r.length ≤ 6) →
    ∃ out, xact T o.byte p s = some out ∧
      match encodeRequest o p with
      | .error e => out.result = .error (.block e) ∧ out.written = none
      | .ok frame =>
        out.written = some frame ∧
          match T.writeOk, T.reply with
          | false, _ => out.result = .error .transportFailure
          | true, none => out.result = .error .transportFailure
          | true, some r =>
            match decodeResponse r with
            | .ok (a, b) => out.result = .ok a b
            | .error e => out.result = .error (.block e)

/-- spec/44_commands.md R114: what a transaction leaves behind. -/
def Obligations.XactLeavesTheBlockReady : Prop :=
  ∀ (T : Transport) (o : OrderCode) (p : List Byte) (s : State) (out : XactOut), s.Inv →
    (∀ r, T.reply = some r → r.length ≤ 6) → xact T o.byte p s = some out →
    out.final.Inv ∧ out.final.block.txst = .idle ∧
      match out.result with
      | .ok a b =>
        out.final.block.pv = true ∧ out.final.block.rxcnt = 6 ∧ out.final.block.p1 = a ∧ out.final.block.p2 = b ∧
          out.final.block.acc = out.final.block.rxbuf[5] ∧ out.final.block.err = s.block.err
      | .error (.block .ipc) =>
        out.written = none ∧ out.final.block.err = s.block.err ||| 0x01 ∧
          out.final.block.rxbuf = s.block.rxbuf ∧ out.final.block.rxcnt = s.block.rxcnt ∧
          out.final.block.pv = s.block.pv ∧ out.final.block.p1 = s.block.p1 ∧ out.final.block.p2 = s.block.p2
      | .error (.block .short) =>
        out.written ≠ none ∧ out.final.block.pv = false ∧ out.final.block.err = s.block.err ||| 0x02 ∧
          ∃ r, T.reply = some r ∧ r.length < 6 ∧ out.final.block.rxcnt.toNat = r.length
      | .error (.block .cksum) =>
        out.written ≠ none ∧ out.final.block.pv = false ∧ out.final.block.rxcnt = 6 ∧
          out.final.block.err = s.block.err ||| 0x04 ∧ out.final.block.acc = checksum (out.final.block.rxbuf.toList.take 5)
      | .error .transportFailure =>
        out.written ≠ none ∧ out.final.block.rxbuf = s.block.rxbuf ∧ out.final.block.rxcnt = s.block.rxcnt ∧
          out.final.block.pv = s.block.pv ∧ out.final.block.p1 = s.block.p1 ∧ out.final.block.p2 = s.block.p2 ∧
          out.final.block.err = s.block.err
      | .error _ => False

/-- spec/44_commands.md R110: an unknown command is rejected before any command word is issued and nothing is written.
That the rejected line is a next state with a report, and that what is presented after it stays presented, is the model's
choice (log entries 10 and 13), and so is the transport as an argument (log entry 12). -/
def Obligations.UnknownCommandWritesNothing : Prop :=
  (∀ (T : Transport) (name : String) (t : Int) (s : State),
    name ∉ ["FORWARD", "BACK", "LEFT", "RIGHT", "CATCH"] →
    moveOrControl T name t s = some ⟨.error .unknownCommand, none, s⟩) ∧
    ∀ (s : State) (ops : List AsmOperand) (rest : List Input),
      s.pending = .line ⟨"CTRL.JUMP", ops⟩ :: rest →
      step s = .next { s with pending := rest, report := some .unknownCommand }

/-- spec/44_commands.md R115: the classification of the board status, an unknown one keeping its byte. -/
def Obligations.BoardStatusIsClassified : Prop :=
  boardStatus 1 = .stIdle ∧ boardStatus 2 = .stBusy ∧ boardStatus 3 = .stFixing ∧ boardStatus 4 = .stError ∧
    (∀ a : Byte, a = 0 ∨ 5 ≤ a.toNat → boardStatus a = .unknownStatus a) ∧
    (∀ a b : Byte, interpret .status a b = .status (boardStatus a) b) ∧
    ∀ a b : Byte, interpret .loadConf a b = .outcome a b ∧ interpret .control a b = .outcome a b

/-! ### Encoding -/

/-- spec/30_encoding.md R48 to R62: what an instruction is presented as decodes to it, with every operand at every
value. That a frame row is presented as its frame and a pseudo-operation as its program line is the model's choice (log
entries 5 and 8). -/
def Obligations.DecodeOfEncode : Prop := ∀ i : Instr, decode (encode i) = .instr i

/-- spec/30_encoding.md R50: an operation is selected by its operation code; DATA is used as it stands by the four
operations with an operand and ignored by the others. -/
def Obligations.OperationIsSelectedByItsCode : Prop :=
  (∀ w : CmdWord, encode (decodeCmd w) = .cmd (if cmdOp w ∈ [0x2, 0x4, 0x5, 0x9] then w else w &&& 0xF00)) ∧
    ∀ w w' : CmdWord, cmdOp w = cmdOp w' → cmdOp w ∉ [0x2, 0x4, 0x5, 0x9] → decodeCmd w = decodeCmd w'

/-- The 96-bit numbers that decode to a request row are exactly the frames of spec/30_encoding.md R52 with one of the
three order codes of R53, and each decodes to its own parameters. That such a number is decoded at all, and only with
the header, an order code and the checksum, is the model's choice (log entry 5): the block itself never decodes a
request frame (R57). -/
def Obligations.RequestFramesAreExactlyTheAssembled : Prop :=
  ∀ (f : BitVec 96) (i : Instr),
    decodeReqFrame f = some i ↔
      ∃ p : Vector Byte 8,
        i = .reqStatus p ∧ f = packFrame12 (requestFrame 0xC0 p) ∨
          i = .reqLoadconf p ∧ f = packFrame12 (requestFrame 0xC1 p) ∨
          i = .reqControl p ∧ f = packFrame12 (requestFrame 0xC2 p)

/-- Words written out from spec/30_encoding.md and spec/95_test_vectors.md decode to what they stand for. That a request
frame is decoded, and that the one with a wrong checksum is rejected as notARequestFrame, is the model's choice (log
entries 5 and 10): for the block there is no illegal request frame (R57 (c)). -/
def Obligations.SampleWordsDecode : Prop :=
  decode (.cmd 0x1A7) = .instr .csclr ∧ decode (.cmd 0x2C0) = .instr (.csadd 0xC0) ∧
    decode (.cmd 0x4C1) = .instr (.txnew 0xC1) ∧ decode (.cmd 0x50F) = .instr (.txpar 0x0F) ∧
    decode (.cmd 0x918) = .instr (.rxpush 0x18) ∧ decode (.cmd 0xD00) = .instr .errrd ∧
    decode (.cmd 0x0C3) = .instr .reserved0 ∧ decode (.cmd 0xFFF) = .instr .reservedF ∧
    decode (.reqFrame 0xFF55C10102030405060708_39) = .instr (.reqLoadconf #v[1, 2, 3, 4, 5, 6, 7, 8]) ∧
    decode (.reqFrame 0xFF55C10102030405060708_3A) = .reject .notARequestFrame ∧
    decode (.rspFrame 0xFF55C0010318) = .instr (.rsp #v[0xFF, 0x55, 0xC0, 0x01, 0x03, 0x18]) ∧
    decode (.line ⟨"CTRL.BACK", [.num 15]⟩) = .instr (.ctrlBack 15)

/-- Six sample program texts (spec/30_encoding.md R61, R62): three assemble to the words the spec gives, three are
rejected with the error it names. The class of a refused operand and the blanks are the model's (log entries 9 and
13). -/
def Obligations.SampleProgramTextsAssemble : Prop :=
  assembleProgram "TXNEW STATUS ; begin".toList = .ok [0x4C0] ∧
    assembleProgram "CTRL.BACK 15".toList =
      .ok [0x4C2, 0x5F0, 0x500, 0x500, 0x500, 0x500, 0x500, 0x500, 0x500, 0x600] ∧
    assembleProgram "RXPUSH 0xFF\n; a comment\nRXDEC".toList = .ok [0x9FF, 0xA00] ∧
    assembleProgram "CSADD 256".toList = .error .assemblyError ∧
    assembleProgram "CTRL.LEFT 256".toList = .error (.block .ipc) ∧
    assembleProgram "CTRL.JUMP 1".toList = .error .unknownCommand

/-! ### The machine -/

/-- The step runs the decoded instruction: it takes what the host presents next off the list and executes it; the reset
event is stated too, and that nothing happens where nothing is presented (spec/00_scope.md R11, spec/60_exceptions.md
R130). The list of presented things is the model's choice (log entries 1 and 8, spec/10_state.md R27). The clause on what
is rejected by name is the model's choice: that it is a next state in which only the report changes is log entry 10, and
that what is presented after it stays presented is log entry 13; the spec says only that no command word is issued
(spec/44_commands.md R100, R110). -/
def Obligations.StepRunsTheDecodedInstruction : Prop :=
  (∀ (s : State) (x : Input) (rest : List Input) (i : Instr), s.pending = x :: rest → decode x = .instr i →
    step s = exec i { s with pending := rest }) ∧
    (∀ (s : State) (x : Input) (rest : List Input), s.pending = x :: rest → decode x = .reset →
      step s = .next { s with pending := rest }.resetEvent) ∧
    (∀ (s : State) (x : Input) (rest : List Input) (e : HostError), s.pending = x :: rest → decode x = .reject e →
      step s = .next { s with pending := rest, report := some e }) ∧
    ∀ s : State, s.pending = [] → step s = .next s

/-- spec/10_state.md R33, spec/70_reset_and_hazards.md R134: the control elements after the reset event, from every
state. The data registers are unspecified there and the statement says nothing of them. That the event is presented in,
and taken off, the host's list is the model's choice (log entry 8). -/
def Obligations.ResetEventClearsTheControlState : Prop :=
  ∀ (s : State) (rest : List Input), s.pending = .rst :: rest →
    ∃ t, step s = .next t ∧ t.block.acc = 0x00 ∧ t.block.pcnt = 0 ∧ t.block.txst = .idle ∧ t.block.txptr = 0 ∧
      t.block.rxcnt = 0 ∧ t.block.pv = false ∧ t.block.err = 0x00 ∧ t.port = ⟨0, 0x00⟩ ∧ t.pending = rest

/-- spec/70_reset_and_hazards.md R136: how the first operation after reset behaves. -/
def Obligations.FirstOperationAfterReset : Prop :=
  ∀ s u : State, u = State.reset ∨ u = s.resetEvent →
    u.port = ⟨0, 0x00⟩ ∧
      (∀ i ∈ [Instr.csrd, .errrd], exec i u = .next { u with resp := [⟨0, 0x00⟩] }) ∧
      (∀ i ∈ [Instr.txpar 0x00, .txbuild, .txpop, .rxp1, .rxp2],
        exec i u = .next { u with block := { u.block with err := 0x10 }, resp := [⟨5, 0x00⟩] }) ∧
      (∀ b : Byte, exec (.txpar b) u =
        .next { u with block := { u.block with err := 0x10 }, resp := [⟨5, 0x00⟩] }) ∧
      exec .rxdec u = .next { u with block := { u.block with err := 0x02 }, resp := [⟨2, 0x00⟩] } ∧
      (∀ b : Byte, exec (.rxpush b) u =
        .next
          { u with block := { u.block with rxbuf := u.block.rxbuf.set 0 b, rxcnt := 1 }, resp := [⟨0, 0x00⟩] }) ∧
      (∀ o : OrderCode, exec (.txnew o.byte) u =
        .next { u with block := { u.block with ord := o.byte, txst := .load }, resp := [⟨0, 0x00⟩] }) ∧
      ∀ b : Byte, exec (.csadd b) u = .next { u with block := { u.block with acc := b }, resp := [⟨0, 0x00⟩] }

/-- spec/10_state.md R30 at reset, and R33's values there. -/
def Obligations.ResetMeetsTheInvariant : Prop :=
  State.reset.Inv ∧ State.reset.block.acc = 0x00 ∧ State.reset.block.pcnt = 0 ∧ State.reset.block.txst = .idle ∧
    State.reset.block.txptr = 0 ∧ State.reset.block.rxcnt = 0 ∧ State.reset.block.pv = false ∧
    State.reset.block.err = 0x00

/-- spec/10_state.md R30 (1) to (3) and the first half of (4): every step keeps the invariant. -/
def Obligations.StepKeepsTheInvariant : Prop := ∀ s t : State, s.Inv → step s = .next t → t.Inv

/-- spec/00_scope.md R11, spec/93_implementation_defined.md: a step always completes; no instruction, no frame, no
program line and no reset stops the machine. That what the host rejects is a next state is the model's choice (log entry
10), and so is what a frame row does (log entry 5). -/
def Obligations.EveryStepCompletes : Prop := ∀ s : State, s.Inv → Safe (step s)

/-- spec/10_state.md R31: what a later operation cannot read cannot be told apart, and in particular the data registers
after a reset: two machines that differ only there answer every sequence of command words alike. What the model puts into
them is its choice (log entries 2 and 3), and the statement says that it cannot be seen. -/
def Obligations.UnspecifiedRegistersAreUnobservable : Prop :=
  (∀ s t : State, s.resetBlock.SameLive t.resetBlock ∧ State.reset.block.SameLive t.resetBlock) ∧
    ∀ (ws : List CmdWord) (s t : State), s.block.SameLive t.block →
      match runWords ws s with
      | some (rs, s') => ∃ t', runWords ws t = some (rs, t') ∧ s'.block.SameLive t'.block
      | none => runWords ws t = none
end

