-- ==== Sys2Proof/Laws/State.lean ====
section
/-!
SUPPORT. The small lemmas of the state updates: one for each field and update.
-/

namespace Sys2Proof.Machine

variable (s : State) (rs : List Response) (b : Block) (e : HostError)

@[simp] theorem State.answered_block : (s.answered rs b).block = b := rfl
@[simp] theorem State.answered_resp : (s.answered rs b).resp = rs := rfl
@[simp] theorem State.answered_report : (s.answered rs b).report = none := rfl
@[simp] theorem State.answered_pending : (s.answered rs b).pending = s.pending := rfl
@[simp] theorem State.answered_freeCtr : (s.answered rs b).freeCtr = s.freeCtr := rfl

@[simp] theorem State.reject_block : (s.reject e).block = s.block := rfl
@[simp] theorem State.reject_resp : (s.reject e).resp = s.resp := rfl
@[simp] theorem State.reject_report : (s.reject e).report = some e := rfl
@[simp] theorem State.reject_pending : (s.reject e).pending = s.pending := rfl
@[simp] theorem State.reject_freeCtr : (s.reject e).freeCtr = s.freeCtr := rfl

@[simp] theorem State.resetEvent_block : s.resetEvent.block = s.resetBlock := rfl
@[simp] theorem State.resetEvent_resp : s.resetEvent.resp = [] := rfl
@[simp] theorem State.resetEvent_report : s.resetEvent.report = none := rfl
@[simp] theorem State.resetEvent_pending : s.resetEvent.pending = s.pending := rfl
@[simp] theorem State.resetEvent_freeCtr : s.resetEvent.freeCtr = s.freeCtr + 29 := rfl

@[simp] theorem State.resetBlock_acc : s.resetBlock.acc = 0x00 := rfl
@[simp] theorem State.resetBlock_pcnt : s.resetBlock.pcnt = 0 := rfl
@[simp] theorem State.resetBlock_txst : s.resetBlock.txst = .idle := rfl
@[simp] theorem State.resetBlock_txptr : s.resetBlock.txptr = 0 := rfl
@[simp] theorem State.resetBlock_rxcnt : s.resetBlock.rxcnt = 0 := rfl
@[simp] theorem State.resetBlock_pv : s.resetBlock.pv = false := rfl
@[simp] theorem State.resetBlock_err : s.resetBlock.err = 0x00 := rfl

/-- The port shows the response of the last operation. -/
@[simp] theorem State.port_answered_singleton (r : Response) : (s.answered [r] b).port = r := rfl

end Sys2Proof.Machine
end

