-- ==== Sys2Proof/Laws/Ops.lean ====
section
/-!
SUPPORT. What the shared operations can do, once each.
-/

namespace Sys2Proof.Machine

@[simp] theorem respond_eq (d : Byte) (b : Block) : b.respond d = .ok (okResponse d, b) := rfl

@[simp] theorem raise_eq (c : Cause) (b : Block) :
    b.raise c = .ok (errResponse c, { b with err := setFlag b.err c }) := rfl

@[simp] theorem runOps_nil (b : Block) : runOps [] b = .ok ([], b) := rfl

/-- A sequence whose first operation answers goes on from the state it left. -/
theorem runOps_cons_ok {op : BlockOp} {b b' : Block} {r : Response} (ops : List BlockOp) (h : op b = .ok (r, b')) :
    runOps (op :: ops) b =
      match runOps ops b' with
      | .error f => .error f
      | .ok (rs, b'') => .ok (r :: rs, b'') := by
  cases hr : runOps ops b' <;> simp [runOps, h, hr]

theorem runOps_singleton {op : BlockOp} {b b' : Block} {r : Response} (h : op b = .ok (r, b')) :
    runOps [op] b = .ok ([r], b') := by
  simp [runOps, h]

/-- One sequence after another. -/
theorem runOps_append {ops₁ ops₂ : List BlockOp} {b b₁ : Block} {rs₁ : List Response}
    (h : runOps ops₁ b = .ok (rs₁, b₁)) :
    runOps (ops₁ ++ ops₂) b =
      match runOps ops₂ b₁ with
      | .error f => .error f
      | .ok (rs₂, b₂) => .ok (rs₁ ++ rs₂, b₂) := by
  induction ops₁ generalizing b rs₁ with
  | nil =>
    cases h
    simp only [List.nil_append]
    cases runOps ops₂ b₁ <;> rfl
  | cons op ops ih =>
    simp only [runOps, List.cons_append] at h ⊢
    split at h
    · cases h
    · rename_i r b' hop
      split at h
      · cases h
      · rename_i rs b'' hrun
        cases h
        rw [ih hrun]
        cases runOps ops₂ b₁ <;> rfl

/-- Issuing operations that answer gives the answered state. -/
theorem issue_of_run {ops : List BlockOp} {s : State} {rs : List Response} {b : Block}
    (h : runOps ops s.block = .ok (rs, b)) : s.issue ops = .next (s.answered rs b) := by
  simp [State.issue, h]

/-- Everything `issue` can do. -/
theorem issue_cases (ops : List BlockOp) (s : State) :
    (∃ rs b, runOps ops s.block = .ok (rs, b) ∧ s.issue ops = .next (s.answered rs b)) ∨
      (∃ f, runOps ops s.block = .error f ∧ s.issue ops = .fault f) := by
  cases h : runOps ops s.block with
  | error f => exact .inr ⟨f, rfl, by simp [State.issue, h]⟩
  | ok p => exact .inl ⟨p.1, p.2, rfl, by simp [State.issue, h]⟩

/-- If issuing operations gives a next state, it is the answered state of their run. -/
theorem issue_next {ops : List BlockOp} {s t : State} (h : s.issue ops = .next t) :
    ∃ rs b, runOps ops s.block = .ok (rs, b) ∧ t = s.answered rs b := by
  obtain ⟨rs, b, hr, hi⟩ | ⟨f, -, hi⟩ := issue_cases ops s
  · rw [hi] at h
    exact ⟨rs, b, hr, by cases h; rfl⟩
  · rw [hi] at h
    cases h

/-- A checked issue with operands in range is an issue. -/
theorem issueChecked_inRange {ns : List Int} (ops : List BlockOp) (s : State) (h : operandsInRange ns = true) :
    s.issueChecked ns ops = s.issue ops := by
  simp [State.issueChecked, h]

/-- A checked issue with an operand out of range leaves the block alone. -/
theorem issueChecked_outOfRange {ns : List Int} (ops : List BlockOp) (s : State) (h : operandsInRange ns = false) :
    s.issueChecked ns ops = .next (s.reject (.block .ipc)) := by
  simp [State.issueChecked, h]

/-- A property of blocks that every operation of a sequence keeps, the sequence keeps. -/
theorem runOps_keeps (P : Block → Prop) {ops : List BlockOp}
    (hops : ∀ op ∈ ops, ∀ b r b', P b → op b = .ok (r, b') → P b') {b b' : Block} {rs : List Response} (hb : P b)
    (h : runOps ops b = .ok (rs, b')) : P b' := by
  induction ops generalizing b rs with
  | nil => cases h; exact hb
  | cons op ops ih =>
    simp only [runOps] at h
    split at h
    · cases h
    · rename_i r b₁ hop
      split at h
      · cases h
      · rename_i rs' b₂ hrun
        cases h
        exact ih (fun o ho => hops o (List.mem_cons_of_mem _ ho)) (hops op List.mem_cons_self _ _ _ hb hop) hrun

/-- If every operation of a sequence answers from the blocks of a set and stays in it, the sequence answers. -/
theorem runOps_answers (P : Block → Prop) {ops : List BlockOp}
    (hops : ∀ op ∈ ops, ∀ b, P b → ∃ r b', op b = .ok (r, b') ∧ P b') {b : Block} (hb : P b) :
    ∃ rs b', runOps ops b = .ok (rs, b') ∧ P b' := by
  induction ops generalizing b with
  | nil => exact ⟨[], b, rfl, hb⟩
  | cons op ops ih =>
    obtain ⟨r, b₁, hop, hb₁⟩ := hops op List.mem_cons_self b hb
    obtain ⟨rs, b₂, hrun, hb₂⟩ := ih (fun o ho => hops o (List.mem_cons_of_mem _ ho)) hb₁
    exact ⟨r :: rs, b₂, by simp [runOps, hop, hrun], hb₂⟩

/-- Setting the flag of a cause, bit by bit (spec/60_exceptions.md R124). -/
theorem setFlag_getLsbD (e : Byte) (c : Cause) (k : Nat) :
    (setFlag e c).getLsbD k = (e.getLsbD k || decide (k + 1 = c.code.toNat)) := by
  have hc : c.code.toNat = c.bit + 1 := by cases c <;> rfl
  have hb : c.bit < 8 := by cases c <;> decide
  rw [setFlag, Cause.mask, BitVec.getLsbD_or, BitVec.getLsbD_twoPow, hc]
  simp [hb, eq_comm]

end Sys2Proof.Machine
end

