-- ==== Sys2Proof/Laws/Frame.lean ====
section
/-!
SUPPORT. The checksum as a running 8-bit sum, and the two frames.
-/

namespace Sys2Proof.Machine

@[simp] theorem checksum_nil : checksum [] = 0 := rfl

/-- Reducing once or after every addition is the same (spec/40_checksum.md R64, R65). -/
theorem checksum_cons (b : Byte) (bs : List Byte) : checksum (b :: bs) = b + checksum bs := by
  apply BitVec.eq_of_toNat_eq
  simp [checksum, Nat.add_mod]

theorem checksum_append (s t : List Byte) : checksum (s ++ t) = checksum s + checksum t := by
  induction s with
  | nil => simp
  | cons b s ih => simp [checksum_cons, ih, BitVec.add_assoc]

/-- The running sum of an 8-bit accumulator. -/
theorem foldl_add_eq_checksum (a : Byte) (bs : List Byte) : bs.foldl (· + ·) a = a + checksum bs := by
  induction bs generalizing a with
  | nil => simp
  | cons b bs ih => simp [ih, checksum_cons, BitVec.add_assoc]

theorem isOrderCode_iff (b : Byte) : isOrderCode b = true ↔ b = 0xC0 ∨ b = 0xC1 ∨ b = 0xC2 := by
  simp [isOrderCode, OrderCode.byte, or_assoc]

@[simp] theorem isOrderCode_byte (o : OrderCode) : isOrderCode o.byte = true := by
  cases o <;> decide

/-- A vector of eight cells from its cells. -/
theorem vector8_eta {α : Type} (v : Vector α 8) : #v[v[0], v[1], v[2], v[3], v[4], v[5], v[6], v[7]] = v := by
  apply Vector.ext
  intro i hi
  interval_cases i <;> rfl

/-- A vector of six cells from its cells. -/
theorem vector6_eta {α : Type} (v : Vector α 6) : #v[v[0], v[1], v[2], v[3], v[4], v[5]] = v := by
  apply Vector.ext
  intro i hi
  interval_cases i <;> rfl

/-- Eight cells written one after another replace the whole vector. -/
theorem set_all8 {α : Type} (w : Vector α 8) (a0 a1 a2 a3 a4 a5 a6 a7 : α) :
    (((((((w.setIfInBounds 0 a0).setIfInBounds 1 a1).setIfInBounds 2 a2).setIfInBounds 3 a3).setIfInBounds 4
      a4).setIfInBounds 5 a5).setIfInBounds 6 a6).setIfInBounds 7 a7 = #v[a0, a1, a2, a3, a4, a5, a6, a7] := by
  apply Vector.ext
  intro i hi
  interval_cases i <;> simp

/-- Six cells written one after another replace the whole vector. -/
theorem set_all6 {α : Type} (w : Vector α 6) (a0 a1 a2 a3 a4 a5 : α) :
    (((((w.setIfInBounds 0 a0).setIfInBounds 1 a1).setIfInBounds 2 a2).setIfInBounds 3 a3).setIfInBounds 4
      a4).setIfInBounds 5 a5 = #v[a0, a1, a2, a3, a4, a5] := by
  apply Vector.ext
  intro i hi
  interval_cases i <;> simp

theorem checksum_toNat (bs : List Byte) : (checksum bs).toNat = (bs.map BitVec.toNat).sum % 256 := by simp [checksum]

theorem requestSum_toNat (o : Byte) (p : Vector Byte 8) :
    (requestSum o p).toNat =
      (0xFF + 0x55 + o.toNat + p[0].toNat + p[1].toNat + p[2].toNat + p[3].toNat + p[4].toNat + p[5].toNat + p[6].toNat
        + p[7].toNat) % 256 := by
  simp [requestSum, checksum_toNat, requestBody, hdr0, hdr1]
  omega

theorem responseSum_toNat (r : Vector Byte 6) :
    (responseSum r).toNat = (r[0].toNat + r[1].toNat + r[2].toNat + r[3].toNat + r[4].toNat) % 256 := by
  simp [responseSum, checksum_toNat]
  omega

theorem vector8_toList {α : Type} (v : Vector α 8) :
    v.toList = [v[0], v[1], v[2], v[3], v[4], v[5], v[6], v[7]] := by
  conv_lhs => rw [← vector8_eta v]
  rfl

theorem vector6_toList {α : Type} (v : Vector α 6) : v.toList = [v[0], v[1], v[2], v[3], v[4], v[5]] := by
  conv_lhs => rw [← vector6_eta v]
  rfl

/-- encodeRequest on eight parameters is the frame TXBUILD writes. -/
theorem encodeRequest_toList (o : OrderCode) (p : Vector Byte 8) :
    encodeRequest o p.toList = .ok (requestFrame o.byte p).toList := by
  simp only [encodeRequest, vector8_toList]
  rfl

/-- decodeResponse on six bytes is the test RXDEC makes. -/
theorem decodeResponse_toList (r : Vector Byte 6) :
    decodeResponse r.toList = if responseSum r ≠ r[5] then .error .cksum else .ok (r[3], r[4]) := by
  rw [vector6_toList]
  rfl

end Sys2Proof.Machine
end

