-- ==== Sys2Proof/Laws/Units.lean ====
section
/-!
SUPPORT. What each operation of the block can do, once each: cite these instead of unfolding the operation.
-/

namespace Sys2Proof.Machine

variable (b : Block)

theorem csclr_ok : b.csclr = .ok (okResponse 0x00, { b with acc := 0x00 }) := rfl

theorem csadd_ok (x : Byte) : Block.csadd x b = .ok (okResponse 0x00, { b with acc := b.acc + x }) := rfl

theorem csrd_ok : b.csrd = .ok (okResponse b.acc, b) := rfl

theorem txnew_legal {o : Byte} (h : isOrderCode o = true) :
    Block.txnew o b = .ok (okResponse 0x00, { b with ord := o, pcnt := 0, txst := .load }) := by
  simp [Block.txnew, h]

theorem txnew_illegal {o : Byte} (h : isOrderCode o = false) :
    Block.txnew o b = .ok (errResponse .illord, { b with txst := .idle, err := setFlag b.err .illord }) := by
  simp [Block.txnew, h]

theorem txpar_load (x : Byte) (h : b.txst = .load) :
    Block.txpar x b = .ok (okResponse 0x00, { b with par := b.pushedPar x, pcnt := saturatedSucc b.pcnt }) := by
  simp [Block.txpar, h]

theorem txpar_seq (x : Byte) (h : b.txst ≠ .load) :
    Block.txpar x b = .ok (errResponse .seq, { b with err := setFlag b.err .seq }) := by
  simp [Block.txpar, h]

theorem txbuild_full (h : b.txst = .load) (hc : b.pcnt = 8) :
    b.txbuild = .ok (okResponse 0x00,
      { b with
        txbuf := requestFrame b.ord b.par, acc := requestSum b.ord b.par, txptr := 0, txst := .ready }) := by
  simp [Block.txbuild, h, hc]

theorem txbuild_ipc (h : b.txst = .load) (hc : b.pcnt ≠ 8) :
    b.txbuild = .ok (errResponse .ipc, { b with txst := .idle, err := setFlag b.err .ipc }) := by
  rw [Block.txbuild, if_neg (by simp [h]), if_pos hc, raise_eq]

theorem txbuild_seq (h : b.txst ≠ .load) :
    b.txbuild = .ok (errResponse .seq, { b with err := setFlag b.err .seq }) := by
  simp [Block.txbuild, h]

theorem txpop_ready (h : b.txst = .ready) (hp : b.txptr.toNat < 12) :
    b.txpop = .ok (okResponse b.txbuf[b.txptr.toNat],
      { b with txptr := b.txptr + 1, txst := if b.txptr + 1 = 12 then .idle else .ready }) := by
  simp [Block.txpop, h, hp]

theorem txpop_seq (h : b.txst ≠ .ready) :
    b.txpop = .ok (errResponse .seq, { b with err := setFlag b.err .seq }) := by
  simp [Block.txpop, h]

theorem txpop_fault (h : b.txst = .ready) (hp : 12 ≤ b.txptr.toNat) : b.txpop = .error .txIndexOutOfRange := by
  simp [Block.txpop, h, hp]

theorem rxnew_ok : b.rxnew = .ok (okResponse 0x00, { b with rxcnt := 0, pv := false }) := rfl

theorem rxpush_room (x : Byte) (h : b.rxcnt.toNat < 6) :
    Block.rxpush x b = .ok (okResponse 0x00,
      { b with rxbuf := b.rxbuf.setIfInBounds b.rxcnt.toNat x, rxcnt := b.rxcnt + 1 }) := by
  have h6 : b.rxcnt ≠ 6 := by
    intro h'
    simp [h'] at h
  rw [Block.rxpush, if_neg h6, if_pos h, respond_eq]

theorem rxpush_ovr (x : Byte) (h : b.rxcnt = 6) :
    Block.rxpush x b = .ok (errResponse .ovr, { b with err := setFlag b.err .ovr }) := by
  simp [Block.rxpush, h]

theorem rxpush_fault (x : Byte) (h : ¬ b.rxcnt.toNat < 6) (h6 : b.rxcnt ≠ 6) :
    Block.rxpush x b = .error .rxIndexOutOfRange := by
  rw [Block.rxpush, if_neg h6, if_neg h]

theorem rxdec_short (h : b.rxcnt.toNat < 6) :
    b.rxdec = .ok (errResponse .short, { b with pv := false, err := setFlag b.err .short }) := by
  simp [Block.rxdec, h]

theorem rxdec_cksum (h : ¬ b.rxcnt.toNat < 6) (hc : responseSum b.rxbuf ≠ b.rxbuf[5]) :
    b.rxdec = .ok (errResponse .cksum,
      { b with acc := responseSum b.rxbuf, pv := false, err := setFlag b.err .cksum }) := by
  simp [Block.rxdec, h, hc]

theorem rxdec_valid (h : ¬ b.rxcnt.toNat < 6) (hc : responseSum b.rxbuf = b.rxbuf[5]) :
    b.rxdec = .ok (okResponse 0x00,
      { b with acc := responseSum b.rxbuf, p1 := b.rxbuf[3], p2 := b.rxbuf[4], pv := true }) := by
  simp [Block.rxdec, h, hc]

theorem rxp1_valid (h : b.pv = true) : b.rxp1 = .ok (okResponse b.p1, b) := by simp [Block.rxp1, h]

theorem rxp1_seq (h : b.pv = false) :
    b.rxp1 = .ok (errResponse .seq, { b with err := setFlag b.err .seq }) := by
  simp [Block.rxp1, h]

theorem rxp2_valid (h : b.pv = true) : b.rxp2 = .ok (okResponse b.p2, b) := by simp [Block.rxp2, h]

theorem rxp2_seq (h : b.pv = false) :
    b.rxp2 = .ok (errResponse .seq, { b with err := setFlag b.err .seq }) := by
  simp [Block.rxp2, h]

theorem errrd_ok : b.errrd = .ok (okResponse b.err, b) := rfl

theorem errclr_ok : b.errclr = .ok (okResponse 0x00, { b with err := 0x00 }) := rfl

theorem reservedOp_ok :
    b.reservedOp = .ok (errResponse .illop, { b with err := setFlag b.err .illop }) := rfl

end Sys2Proof.Machine
end

