-- ==== Sys2Proof/Laws/Requests.lean ====
section
/-!
SUPPORT. The runs of whole frames: what assembling a request, drawing it, and taking in a response leave.
-/

namespace Sys2Proof.Machine

/-- The block after a legal request was assembled. -/
def Block.withRequest (b : Block) (o : Byte) (p : Vector Byte 8) : Block :=
  { b with
    ord := o, par := p, pcnt := 8, txbuf := requestFrame o p, acc := requestSum o p, txptr := 0, txst := .ready }

/-- Assembling a request with a legal order code answers ten successes from every state (spec/44_commands.md R100). -/
theorem runOps_requestOps (b : Block) {o : Byte} (p : Vector Byte 8) (h : isOrderCode o = true) :
    runOps (requestOps o p) b = .ok (List.replicate 10 (okResponse 0x00), b.withRequest o p) := by
  simp [requestOps, runOps, Block.txnew, h, Block.txpar, Block.txbuild, Block.pushedPar, saturatedSucc, set_all8,
    vector8_eta, Block.withRequest, List.replicate]

/-- Drawing a whole built frame gives its twelve bytes in order and leaves the assembler idle
(spec/44_commands.md R112). -/
theorem runOps_sendOps (b : Block) (h : b.txst = .ready) (hp : b.txptr = 0) :
    runOps sendOps b = .ok (b.txbuf.toList.map okResponse, { b with txptr := 12, txst := .idle }) := by
  have hl : b.txbuf.toList = [b.txbuf[0], b.txbuf[1], b.txbuf[2], b.txbuf[3], b.txbuf[4], b.txbuf[5], b.txbuf[6],
      b.txbuf[7], b.txbuf[8], b.txbuf[9], b.txbuf[10], b.txbuf[11]] := by
    apply List.ext_getElem (by simp)
    intro i h1 h2
    simp only [Vector.length_toList] at h1
    interval_cases i <;> simp
  simp [hl, sendOps, runOps, Block.txpop, h, hp, List.replicate]

/-- The block after a response frame of six bytes was taken in and found valid. -/
def Block.withResponse (b : Block) (r : Vector Byte 6) : Block :=
  { b with rxbuf := r, rxcnt := 6, acc := responseSum r, p1 := r[3], p2 := r[4], pv := true }

/-- A response frame with a good checksum is accepted from every state (spec/42_parser.md R92). -/
theorem runOps_responseOps_valid (b : Block) (r : Vector Byte 6) (h : responseSum r = r[5]) :
    runOps (responseOps r) b = .ok (List.replicate 8 (okResponse 0x00), b.withResponse r) := by
  simp [responseOps, runOps, Block.rxnew, Block.rxpush, Block.rxdec, set_all6, vector6_eta, Block.withResponse, h,
    List.replicate]

/-- A response frame with a bad checksum is CKSUM from every state. -/
theorem runOps_responseOps_cksum (b : Block) (r : Vector Byte 6) (h : responseSum r ≠ r[5]) :
    runOps (responseOps r) b =
      .ok (List.replicate 7 (okResponse 0x00) ++ [errResponse .cksum],
        { b with
          rxbuf := r, rxcnt := 6, acc := responseSum r, pv := false, err := setFlag b.err .cksum }) := by
  simp [responseOps, runOps, Block.rxnew, Block.rxpush, Block.rxdec, set_all6, vector6_eta, h, List.replicate]

end Sys2Proof.Machine
end

