-- ==== Sys2Proof/Laws/Words.lean ====
section
/-!
SUPPORT. Command words at the level of the block: the operation a word performs, and runs of words.
-/

namespace Sys2Proof.Machine

open Sys2Proof

theorem cmdOp_cmdWord (op : BitVec 4) (d : Byte) : cmdOp (cmdWord op d) = op := by
  show (op ++ d : BitVec (4 + 8)).extractLsb' 8 4 = op
  exact BitVec.extractLsb'_append_eq_left

theorem cmdData_cmdWord (op : BitVec 4) (d : Byte) : cmdData (cmdWord op d) = d := by
  show (op ++ d : BitVec (4 + 8)).extractLsb' 0 8 = d
  exact BitVec.extractLsb'_append_eq_right

/-- A word is its operation code and its operand byte. -/
theorem cmdWord_cmdOp_cmdData (w : CmdWord) : cmdWord (cmdOp w) (cmdData w) = w := by
  simp only [cmdWord, cmdOp, cmdData]
  exact (BitVec.extractLsb'_append_extractLsb'_eq_extractLsb' (x := w) (by rfl)).trans (by simp)

/-- The operation of the block that an operation code and an operand byte select. -/
def opOf (op : BitVec 4) (data : Byte) : BlockOp :=
  match op.toNat with
  | 0x0 => Block.reservedOp
  | 0x1 => Block.csclr
  | 0x2 => Block.csadd data
  | 0x3 => Block.csrd
  | 0x4 => Block.txnew data
  | 0x5 => Block.txpar data
  | 0x6 => Block.txbuild
  | 0x7 => Block.txpop
  | 0x8 => Block.rxnew
  | 0x9 => Block.rxpush data
  | 0xA => Block.rxdec
  | 0xB => Block.rxp1
  | 0xC => Block.rxp2
  | 0xD => Block.errrd
  | 0xE => Block.errclr
  | _ => Block.reservedOp

/-- The operation of the block a command word performs. -/
def blockOp (w : CmdWord) : BlockOp := opOf (cmdOp w) (cmdData w)

/-- An operation code is one of sixteen. -/
theorem opCode_cases (op : BitVec 4) :
    (op = 0x0 ∨ op = 0x1 ∨ op = 0x2 ∨ op = 0x3 ∨ op = 0x4 ∨ op = 0x5 ∨ op = 0x6 ∨ op = 0x7) ∨
    (op = 0x8 ∨ op = 0x9 ∨ op = 0xA ∨ op = 0xB ∨ op = 0xC ∨ op = 0xD ∨ op = 0xE ∨ op = 0xF) := by
  revert op
  decide

theorem cmdOp_cases (w : CmdWord) :
    (cmdOp w = 0x0 ∨ cmdOp w = 0x1 ∨ cmdOp w = 0x2 ∨ cmdOp w = 0x3 ∨ cmdOp w = 0x4 ∨ cmdOp w = 0x5 ∨ cmdOp w = 0x6 ∨
      cmdOp w = 0x7) ∨
    (cmdOp w = 0x8 ∨ cmdOp w = 0x9 ∨ cmdOp w = 0xA ∨ cmdOp w = 0xB ∨ cmdOp w = 0xC ∨ cmdOp w = 0xD ∨ cmdOp w = 0xE ∨
      cmdOp w = 0xF) :=
  opCode_cases (cmdOp w)

/-- Executing a command word is issuing its one operation. -/
theorem exec_decodeCmd (w : CmdWord) (s : State) : exec (decodeCmd w) s = s.issue [blockOp w] := by
  unfold decodeCmd blockOp
  rcases cmdOp_cases w with (h | h | h | h | h | h | h | h) | (h | h | h | h | h | h | h | h) <;> rw [h] <;> rfl

/-- Decoding of a word whose operation code is known. -/
theorem decodeCmd_eq {w : CmdWord} {op : BitVec 4} (h : cmdOp w = op) : decodeCmd w = instrOf op (cmdData w) := by
  rw [decodeCmd, h]

/-- The operation of the block of a word whose operation code is known. -/
theorem blockOp_eq {w : CmdWord} {op : BitVec 4} (h : cmdOp w = op) : blockOp w = opOf op (cmdData w) := by
  rw [blockOp, h]

/-- Decoding of a word given by its two fields. -/
theorem decodeCmd_cmdWord (op : BitVec 4) (d : Byte) : decodeCmd (cmdWord op d) = instrOf op d := by
  rw [decodeCmd, cmdOp_cmdWord, cmdData_cmdWord]

/-- The operation of the block of a word given by its two fields. -/
theorem blockOp_cmdWord (op : BitVec 4) (d : Byte) : blockOp (cmdWord op d) = opOf op d := by
  rw [blockOp, cmdOp_cmdWord, cmdData_cmdWord]

/-- Everything issuing one word can do. -/
theorem issueWord_of_op {w : CmdWord} {s : State} {r : Response} {b : Block} (h : blockOp w s.block = .ok (r, b)) :
    issueWord w s = some (r, s.answered [r] b) := by
  simp [issueWord, exec_decodeCmd, State.issue, runOps_singleton h]

theorem issueWord_of_fault {w : CmdWord} {s : State} {f : Fault} (h : blockOp w s.block = .error f) :
    issueWord w s = none := by
  simp [issueWord, exec_decodeCmd, State.issue, runOps, h]

/-- A run of words is the run of their operations: same responses, same block; the rest of the state is the host's. -/
theorem runWords_of_run {ws : List CmdWord} {s : State} {rs : List Response} {b : Block}
    (h : runOps (ws.map blockOp) s.block = .ok (rs, b)) :
    ∃ t, runWords ws s = some (rs, t) ∧ t.block = b ∧ t.pending = s.pending ∧ t.freeCtr = s.freeCtr ∧
      (ws ≠ [] → t.report = none) := by
  induction ws generalizing s rs with
  | nil =>
    cases h
    exact ⟨s, rfl, rfl, rfl, rfl, by simp⟩
  | cons w ws ih =>
    simp only [List.map_cons, runOps] at h
    split at h
    · cases h
    · rename_i r b₁ hop
      split at h
      · cases h
      · rename_i rs' b₂ hrun
        cases h
        obtain ⟨t, ht, hb, hp, hf, hr⟩ := ih (s := s.answered [r] b₁) hrun
        refine ⟨t, by simp [runWords, issueWord_of_op hop, ht], hb, hp, hf, fun _ => ?_⟩
        cases ws with
        | nil =>
          cases ht
          rfl
        | cons w' ws' => exact hr (by simp)

/-- A run of words stops where the run of their operations does. -/
theorem runWords_of_fault {ws : List CmdWord} {s : State} {f : Fault}
    (h : runOps (ws.map blockOp) s.block = .error f) : runWords ws s = none := by
  induction ws generalizing s with
  | nil => cases h
  | cons w ws ih =>
    simp only [List.map_cons, runOps] at h
    split at h
    · rename_i f' hop
      simp [runWords, issueWord_of_fault hop]
    · rename_i r b₁ hop
      split at h
      · rename_i f' hrun
        cases h
        simp [runWords, issueWord_of_op hop, ih (s := s.answered [r] b₁) hrun]
      · cases h

/-- One run of words after another. -/
theorem runWords_append {ws vs : List CmdWord} {s t u : State} {rs qs : List Response}
    (h₁ : runWords ws s = some (rs, t)) (h₂ : runWords vs t = some (qs, u)) :
    runWords (ws ++ vs) s = some (rs ++ qs, u) := by
  induction ws generalizing s rs with
  | nil =>
    cases h₁
    exact h₂
  | cons w ws ih =>
    simp only [runWords, List.cons_append] at h₁ ⊢
    split at h₁
    · cases h₁
    · rename_i r s₁ hw
      split at h₁
      · cases h₁
      · rename_i rs' t' hrun
        cases h₁
        rw [ih hrun]
        rfl

/-- As many responses as words. -/
theorem runWords_length {ws : List CmdWord} {s t : State} {rs : List Response} (h : runWords ws s = some (rs, t)) :
    rs.length = ws.length := by
  induction ws generalizing s rs with
  | nil =>
    cases h
    rfl
  | cons w ws ih =>
    simp only [runWords] at h
    split at h
    · cases h
    · split at h
      · cases h
      · rename_i rs' t' hrun
        cases h
        simp [ih hrun]

end Sys2Proof.Machine
end

