-- ==== Sys2Proof/Laws/Encoding.lean ====
section
/-!
SUPPORT. The words of a row and the bytes of a frame: what `encodeWords` issues, and that a packed frame gives its
bytes back.
-/

namespace Sys2Proof.Machine

open Sys2Proof

theorem requestExpansion_ops (o : Byte) (p : Vector Byte 8) :
    ((requestExpansion o p).filterMap operationWord).map blockOp = requestOps o p := by
  simp [requestExpansion, operationWord, requestOps, blockOp_cmdWord, opOf]

theorem frameExpansion_ops (o : OrderCode) (p : Vector Byte 8) :
    ((frameExpansion o p).filterMap operationWord).map blockOp = frameOps o p := by
  unfold frameExpansion frameOps
  rw [List.filterMap_append, List.map_append, requestExpansion_ops]
  simp [sendOps, List.replicate, operationWord, blockOp_cmdWord, opOf]

theorem responseExpansion_ops (r : Vector Byte 6) :
    ((responseExpansion r).filterMap operationWord).map blockOp = responseOps r := by
  simp [responseExpansion, operationWord, responseOps, blockOp_cmdWord, opOf]

/-- The word of an operation decodes to it. -/
theorem decodeCmd_operationWord {i : Instr} {w : CmdWord} (h : operationWord i = some w) : decodeCmd w = i := by
  cases i <;> cases h <;> rw [decodeCmd_cmdWord] <;> rfl

theorem operandByte_toNat (b : Byte) : operandByte (b.toNat : Int) = b := by simp [operandByte]

theorem frame12Byte_packFrame12 (v : Vector Byte 12) (i : Nat) (hi : i < 12) :
    frame12Byte (packFrame12 v) i = v[i] := by
  apply BitVec.eq_of_getLsbD_eq
  intro j hj
  unfold frame12Byte packFrame12
  simp only [BitVec.getLsbD_extractLsb', hj, decide_true, Bool.true_and, BitVec.getLsbD_append]
  interval_cases i <;> interval_cases j <;> simp

theorem frame6Byte_packFrame6 (v : Vector Byte 6) (i : Nat) (hi : i < 6) : frame6Byte (packFrame6 v) i = v[i] := by
  apply BitVec.eq_of_getLsbD_eq
  intro j hj
  unfold frame6Byte packFrame6
  simp only [BitVec.getLsbD_extractLsb', hj, decide_true, Bool.true_and, BitVec.getLsbD_append]
  interval_cases i <;> interval_cases j <;> simp

end Sys2Proof.Machine
end

