-- ==== Sys2Proof/Laws/Outcomes.lean ====
section
/-!
SUPPORT. Everything a command word can do, said once: derive the properties of all operations from `blockOp_cases`.
-/

namespace Sys2Proof.Machine

open Sys2Proof

/-- What a command word does to a block: the operation code, the guard, and the answer with the block it leaves; the
last two cases are the indices outside a buffer, which no reachable state gives. -/
inductive WordOutcome (w : CmdWord) (b : Block) : Except Fault (Response × Block) → Prop
  | csclr (h : cmdOp w = 0x1) : WordOutcome w b (.ok (okResponse 0x00, { b with acc := 0x00 }))
  | csadd (h : cmdOp w = 0x2) : WordOutcome w b (.ok (okResponse 0x00, { b with acc := b.acc + cmdData w }))
  | csrd (h : cmdOp w = 0x3) : WordOutcome w b (.ok (okResponse b.acc, b))
  | txnew (h : cmdOp w = 0x4) (ho : isOrderCode (cmdData w) = true) :
      WordOutcome w b (.ok (okResponse 0x00, { b with ord := cmdData w, pcnt := 0, txst := .load }))
  | illord (h : cmdOp w = 0x4) (ho : isOrderCode (cmdData w) = false) :
      WordOutcome w b (.ok (errResponse .illord, { b with txst := .idle, err := setFlag b.err .illord }))
  | txpar (h : cmdOp w = 0x5) (hs : b.txst = .load) :
      WordOutcome w b
        (.ok (okResponse 0x00, { b with par := b.pushedPar (cmdData w), pcnt := saturatedSucc b.pcnt }))
  | txparSeq (h : cmdOp w = 0x5) (hs : b.txst ≠ .load) :
      WordOutcome w b (.ok (errResponse .seq, { b with err := setFlag b.err .seq }))
  | txbuild (h : cmdOp w = 0x6) (hs : b.txst = .load) (hc : b.pcnt = 8) :
      WordOutcome w b
        (.ok (okResponse 0x00,
          { b with
            txbuf := requestFrame b.ord b.par, acc := requestSum b.ord b.par, txptr := 0, txst := .ready }))
  | ipc (h : cmdOp w = 0x6) (hs : b.txst = .load) (hc : b.pcnt ≠ 8) :
      WordOutcome w b (.ok (errResponse .ipc, { b with txst := .idle, err := setFlag b.err .ipc }))
  | txbuildSeq (h : cmdOp w = 0x6) (hs : b.txst ≠ .load) :
      WordOutcome w b (.ok (errResponse .seq, { b with err := setFlag b.err .seq }))
  | txpop (h : cmdOp w = 0x7) (hs : b.txst = .ready) (hp : b.txptr.toNat < 12) :
      WordOutcome w b
        (.ok (okResponse b.txbuf[b.txptr.toNat],
          { b with txptr := b.txptr + 1, txst := if b.txptr + 1 = 12 then .idle else .ready }))
  | txpopSeq (h : cmdOp w = 0x7) (hs : b.txst ≠ .ready) :
      WordOutcome w b (.ok (errResponse .seq, { b with err := setFlag b.err .seq }))
  | rxnew (h : cmdOp w = 0x8) : WordOutcome w b (.ok (okResponse 0x00, { b with rxcnt := 0, pv := false }))
  | rxpush (h : cmdOp w = 0x9) (hc : b.rxcnt.toNat < 6) :
      WordOutcome w b
        (.ok (okResponse 0x00,
          { b with rxbuf := b.rxbuf.setIfInBounds b.rxcnt.toNat (cmdData w), rxcnt := b.rxcnt + 1 }))
  | ovr (h : cmdOp w = 0x9) (hc : b.rxcnt = 6) :
      WordOutcome w b (.ok (errResponse .ovr, { b with err := setFlag b.err .ovr }))
  | short (h : cmdOp w = 0xA) (hc : b.rxcnt.toNat < 6) :
      WordOutcome w b (.ok (errResponse .short, { b with pv := false, err := setFlag b.err .short }))
  | cksum (h : cmdOp w = 0xA) (hc : ¬ b.rxcnt.toNat < 6) (hs : responseSum b.rxbuf ≠ b.rxbuf[5]) :
      WordOutcome w b
        (.ok (errResponse .cksum,
          { b with acc := responseSum b.rxbuf, pv := false, err := setFlag b.err .cksum }))
  | rxdec (h : cmdOp w = 0xA) (hc : ¬ b.rxcnt.toNat < 6) (hs : responseSum b.rxbuf = b.rxbuf[5]) :
      WordOutcome w b
        (.ok (okResponse 0x00,
          { b with acc := responseSum b.rxbuf, p1 := b.rxbuf[3], p2 := b.rxbuf[4], pv := true }))
  | rxp1 (h : cmdOp w = 0xB) (hv : b.pv = true) : WordOutcome w b (.ok (okResponse b.p1, b))
  | rxp1Seq (h : cmdOp w = 0xB) (hv : b.pv = false) :
      WordOutcome w b (.ok (errResponse .seq, { b with err := setFlag b.err .seq }))
  | rxp2 (h : cmdOp w = 0xC) (hv : b.pv = true) : WordOutcome w b (.ok (okResponse b.p2, b))
  | rxp2Seq (h : cmdOp w = 0xC) (hv : b.pv = false) :
      WordOutcome w b (.ok (errResponse .seq, { b with err := setFlag b.err .seq }))
  | errrd (h : cmdOp w = 0xD) : WordOutcome w b (.ok (okResponse b.err, b))
  | errclr (h : cmdOp w = 0xE) : WordOutcome w b (.ok (okResponse 0x00, { b with err := 0x00 }))
  | illop (h : cmdOp w = 0x0 ∨ cmdOp w = 0xF) :
      WordOutcome w b (.ok (errResponse .illop, { b with err := setFlag b.err .illop }))
  | txIndex (h : cmdOp w = 0x7) (hs : b.txst = .ready) (hp : 12 ≤ b.txptr.toNat) :
      WordOutcome w b (.error .txIndexOutOfRange)
  | rxIndex (h : cmdOp w = 0x9) (hc : b.rxcnt = 7) : WordOutcome w b (.error .rxIndexOutOfRange)

/-- Everything a command word can do. -/
theorem blockOp_cases (w : CmdWord) (b : Block) : WordOutcome w b (blockOp w b) := by
  rcases cmdOp_cases w with (h | h | h | h | h | h | h | h) | (h | h | h | h | h | h | h | h) <;> rw [blockOp_eq h]
  · exact .illop (.inl h)
  · exact .csclr h
  · exact .csadd h
  · exact .csrd h
  · cases ho : isOrderCode (cmdData w)
    · exact (congrArg (WordOutcome w b) (txnew_illegal b ho)).mpr (.illord h ho)
    · exact (congrArg (WordOutcome w b) (txnew_legal b ho)).mpr (.txnew h ho)
  · by_cases hs : b.txst = .load
    · exact (congrArg (WordOutcome w b) (txpar_load b _ hs)).mpr (.txpar h hs)
    · exact (congrArg (WordOutcome w b) (txpar_seq b _ hs)).mpr (.txparSeq h hs)
  · by_cases hs : b.txst = .load
    · by_cases hc : b.pcnt = 8
      · exact (congrArg (WordOutcome w b) (txbuild_full b hs hc)).mpr (.txbuild h hs hc)
      · exact (congrArg (WordOutcome w b) (txbuild_ipc b hs hc)).mpr (.ipc h hs hc)
    · exact (congrArg (WordOutcome w b) (txbuild_seq b hs)).mpr (.txbuildSeq h hs)
  · by_cases hs : b.txst = .ready
    · by_cases hp : b.txptr.toNat < 12
      · exact (congrArg (WordOutcome w b) (txpop_ready b hs hp)).mpr (.txpop h hs hp)
      · exact (congrArg (WordOutcome w b) (txpop_fault b hs (by omega))).mpr (.txIndex h hs (by omega))
    · exact (congrArg (WordOutcome w b) (txpop_seq b hs)).mpr (.txpopSeq h hs)
  · exact .rxnew h
  · by_cases hc : b.rxcnt.toNat < 6
    · exact (congrArg (WordOutcome w b) (rxpush_room b _ hc)).mpr (.rxpush h hc)
    · by_cases h6 : b.rxcnt = 6
      · exact (congrArg (WordOutcome w b) (rxpush_ovr b _ h6)).mpr (.ovr h h6)
      · exact (congrArg (WordOutcome w b) (rxpush_fault b _ hc h6)).mpr (.rxIndex h (by bv_omega))
  · by_cases hc : b.rxcnt.toNat < 6
    · exact (congrArg (WordOutcome w b) (rxdec_short b hc)).mpr (.short h hc)
    · by_cases hs : responseSum b.rxbuf = b.rxbuf[5]
      · exact (congrArg (WordOutcome w b) (rxdec_valid b hc hs)).mpr (.rxdec h hc hs)
      · exact (congrArg (WordOutcome w b) (rxdec_cksum b hc hs)).mpr (.cksum h hc hs)
  · cases hv : b.pv
    · exact (congrArg (WordOutcome w b) (rxp1_seq b hv)).mpr (.rxp1Seq h hv)
    · exact (congrArg (WordOutcome w b) (rxp1_valid b hv)).mpr (.rxp1 h hv)
  · cases hv : b.pv
    · exact (congrArg (WordOutcome w b) (rxp2_seq b hv)).mpr (.rxp2Seq h hv)
    · exact (congrArg (WordOutcome w b) (rxp2_valid b hv)).mpr (.rxp2 h hv)
  · exact .errrd h
  · exact .errclr h
  · exact .illop (.inr h)

/-- What executing a command word gives, if it gives a next state: one response, and the block of its outcome. -/
theorem exec_word_next {w : CmdWord} {s t : State} (h : exec (decodeCmd w) s = .next t) :
    ∃ r b, blockOp w s.block = .ok (r, b) ∧ WordOutcome w s.block (.ok (r, b)) ∧ t = s.answered [r] b := by
  rw [exec_decodeCmd] at h
  obtain ⟨rs, b, hr, rfl⟩ := issue_next h
  simp only [runOps] at hr
  split at hr
  · cases hr
  · rename_i r b' hop
    cases hr
    exact ⟨r, b, hop, hop ▸ blockOp_cases w s.block, rfl⟩

/-- A command word whose operation answers gives the answered state. -/
theorem exec_word_of_op {w : CmdWord} {s : State} {r : Response} {b : Block} (h : blockOp w s.block = .ok (r, b)) :
    exec (decodeCmd w) s = .next (s.answered [r] b) := by
  rw [exec_decodeCmd]
  exact issue_of_run (runOps_singleton h)

end Sys2Proof.Machine
end

