-- ==== Sys2Proof/Laws/PerInstr.lean ====
section
/-!
SUPPORT. Statements for every instruction, one lemma per constructor.
-/

namespace Sys2Proof.Laws.CommandWords

open Sys2Proof Sys2Proof.Machine

/-- The command words of an instruction decode to the operations it expands to, one for one; it has none exactly when
it is ill formed, so an operand out of range issues nothing (spec/44_commands.md R100). -/
def Statement (i : Instr) : Prop :=
  (encodeWords i).map decodeCmd = expand i ∧ (encodeWords i = [] ↔ i.wellFormed = false)

theorem of_operation {i : Instr} {w : CmdWord} (he : expand i = [i]) (ho : operationWord i = some w)
    (hw : i.wellFormed = true) : Statement i := by
  simp [Statement, encodeWords, he, ho, hw, decodeCmd_operationWord ho]

theorem requestExpansion_words (o : Byte) (p : Vector Byte 8) :
    ((requestExpansion o p).filterMap operationWord).map decodeCmd = requestExpansion o p ∧
      (requestExpansion o p).filterMap operationWord ≠ [] := by
  simp [requestExpansion, operationWord, decodeCmd_cmdWord, instrOf]

theorem of_request {i : Instr} {o : Byte} {p : Vector Byte 8} (he : expand i = requestExpansion o p)
    (hw : i.wellFormed = true) : Statement i := by
  simp [Statement, encodeWords, he, hw, requestExpansion_words o p]

theorem of_checked {i : Instr} {o : Byte} {p : Vector Byte 8}
    (he : expand i = checkedExpansion i.hostOperands (requestExpansion o p)) : Statement i := by
  have hw : i.wellFormed = operandsInRange i.hostOperands := rfl
  unfold Statement encodeWords
  rw [he, hw, checkedExpansion]
  cases operandsInRange i.hostOperands <;> simp [requestExpansion_words o p]

theorem of_frame {i : Instr} {o : OrderCode} {p : Vector Byte 8} (he : expand i = frameExpansion o p)
    (hw : i.wellFormed = true) : Statement i := by
  simp [Statement, encodeWords, he, hw, frameExpansion, requestExpansion_words o.byte p, List.replicate,
    operationWord, decodeCmd_cmdWord, instrOf]

theorem csclr : Statement .csclr := of_operation rfl rfl rfl
theorem csadd (b : Byte) : Statement (.csadd b) := of_operation rfl rfl rfl
theorem csrd : Statement .csrd := of_operation rfl rfl rfl
theorem txnew (o : Byte) : Statement (.txnew o) := of_operation rfl rfl rfl
theorem txpar (b : Byte) : Statement (.txpar b) := of_operation rfl rfl rfl
theorem txbuild : Statement .txbuild := of_operation rfl rfl rfl
theorem txpop : Statement .txpop := of_operation rfl rfl rfl
theorem rxnew : Statement .rxnew := of_operation rfl rfl rfl
theorem rxpush (b : Byte) : Statement (.rxpush b) := of_operation rfl rfl rfl
theorem rxdec : Statement .rxdec := of_operation rfl rfl rfl
theorem rxp1 : Statement .rxp1 := of_operation rfl rfl rfl
theorem rxp2 : Statement .rxp2 := of_operation rfl rfl rfl
theorem errrd : Statement .errrd := of_operation rfl rfl rfl
theorem errclr : Statement .errclr := of_operation rfl rfl rfl
theorem reserved0 : Statement .reserved0 := of_operation rfl rfl rfl
theorem reservedF : Statement .reservedF := of_operation rfl rfl rfl
theorem reqStatus (params : Vector Byte 8) : Statement (.reqStatus params) := of_frame rfl rfl
theorem reqLoadconf (params : Vector Byte 8) : Statement (.reqLoadconf params) := of_frame rfl rfl
theorem reqControl (params : Vector Byte 8) : Statement (.reqControl params) := of_frame rfl rfl
theorem rsp (raw : Vector Byte 6) : Statement (.rsp raw) := by
  simp [Statement, encodeWords, expand, responseExpansion, operationWord, decodeCmd_cmdWord, instrOf, Instr.wellFormed,
    Instr.hostOperands]
theorem req (o : Int) (params : Vector Int 8) : Statement (.req o params) := of_checked rfl
theorem qstatus : Statement .qstatus := of_request rfl rfl
theorem loadconfC (gameTime : Int) : Statement (.loadconfC gameTime) := of_checked rfl
theorem loadconfN (smallPower bigPower gameTime : Int) : Statement (.loadconfN smallPower bigPower gameTime) :=
  of_checked rfl
theorem ctrlForward (moveTime : Int) : Statement (.ctrlForward moveTime) := of_checked rfl
theorem ctrlBack (moveTime : Int) : Statement (.ctrlBack moveTime) := of_checked rfl
theorem ctrlLeft (moveTime : Int) : Statement (.ctrlLeft moveTime) := of_checked rfl
theorem ctrlRight (moveTime : Int) : Statement (.ctrlRight moveTime) := of_checked rfl
theorem ctrlCatch : Statement .ctrlCatch := of_request rfl rfl

end Sys2Proof.Laws.CommandWords
end

