-- ==== Sys2Proof/Laws/Runs.lean ====
section
/-!
SUPPORT. Runs of command words: the operands and answers of one operation in a sequence, and the two inductions over a
run, packaged once.
-/

namespace Sys2Proof.Machine

open Sys2Proof

theorem operandsOf_append (op : BitVec 4) (ws vs : List CmdWord) :
    operandsOf op (ws ++ vs) = operandsOf op ws ++ operandsOf op vs := by
  simp [operandsOf]

theorem operandsOf_cons (op : BitVec 4) (w : CmdWord) (ws : List CmdWord) :
    operandsOf op (w :: ws) = (if cmdOp w = op then [cmdData w] else []) ++ operandsOf op ws := by
  unfold operandsOf
  by_cases h : cmdOp w = op <;> simp [h]

theorem operandsOf_map_cmdWord (op : BitVec 4) (bs : List Byte) : operandsOf op (bs.map (cmdWord op)) = bs := by
  induction bs with
  | nil => rfl
  | cons x bs ih =>
    rw [List.map_cons, operandsOf_cons, ih]
    simp [cmdOp_cmdWord, cmdData_cmdWord]

theorem answersTo_cons (op : BitVec 4) (w : CmdWord) (ws : List CmdWord) (r : Response) (rs : List Response) :
    answersTo op (w :: ws) (r :: rs) = (if cmdOp w = op then [r] else []) ++ answersTo op ws rs := by
  unfold answersTo
  by_cases h : cmdOp w = op <;> simp [h]

theorem exists_of_mem_answersTo {op : BitVec 4} {ws : List CmdWord} {rs : List Response} {r : Response}
    (h : r ∈ answersTo op ws rs) : ∃ w, (w, r) ∈ ws.zip rs ∧ cmdOp w = op := by
  simp only [answersTo, List.mem_map, List.mem_filter, beq_iff_eq] at h
  obtain ⟨⟨w, r'⟩, ⟨h₁, h₂⟩, rfl⟩ := h
  exact ⟨w, h₁, h₂⟩

theorem Avoids.of_cons {ops : List (BitVec 4)} {w : CmdWord} {ws : List CmdWord} (h : Avoids ops (w :: ws)) :
    cmdOp w ∉ ops ∧ Avoids ops ws :=
  ⟨h w List.mem_cons_self, fun v hv => h v (List.mem_cons_of_mem _ hv)⟩

theorem runWords_one {w : CmdWord} {s : State} {r : Response} {b : Block} (h : blockOp w s.block = .ok (r, b)) :
    runWords [w] s = some ([r], s.answered [r] b) := by
  simp [runWords, issueWord_of_op h]

/-- A run of one word and more, taken apart. -/
theorem runWords_cons {w : CmdWord} {ws : List CmdWord} {s t : State} {rs : List Response} :
    runWords (w :: ws) s = some (rs, t) ↔
      ∃ r u qs, issueWord w s = some (r, u) ∧ runWords ws u = some (qs, t) ∧ rs = r :: qs := by
  constructor
  · intro h
    simp only [runWords] at h
    split at h
    · cases h
    · rename_i r u h₁
      split at h
      · cases h
      · rename_i qs t' h₂
        cases h
        exact ⟨r, u, qs, h₁, h₂, rfl⟩
  · rintro ⟨r, u, qs, h₁, h₂, rfl⟩
    simp [runWords, h₁, h₂]

/-- A property of the block that speaks of the words issued so far holds after a run if every allowed word keeps it. -/
theorem runOps_history (P : List CmdWord → Block → Prop) (A : CmdWord → Prop)
    (step : ∀ hist w b r b', A w → P hist b → blockOp w b = .ok (r, b') → P (hist ++ [w]) b')
    (ws : List CmdWord) (hA : ∀ w ∈ ws, A w) (hist : List CmdWord) (b : Block) (rs : List Response) (b' : Block)
    (hP : P hist b) (h : runOps (ws.map blockOp) b = .ok (rs, b')) : P (hist ++ ws) b' := by
  induction ws generalizing hist b rs with
  | nil =>
    cases h
    simpa using hP
  | cons w ws ih =>
    simp only [List.map_cons, runOps] at h
    split at h
    · cases h
    · rename_i r b₁ hop
      split at h
      · cases h
      · rename_i rs' b₂ hrun
        cases h
        simpa using ih (fun w hw => hA w (List.mem_cons_of_mem _ hw)) (hist ++ [w]) b₁ rs'
          (step hist w b r b₁ (hA w List.mem_cons_self) hP hop) hrun

/-- A property the allowed words keep holds after a run, and every word's answer is as that property makes it. -/
theorem runOps_pairs (P : Block → Prop) (A : CmdWord → Prop) (Q : CmdWord → Response → Prop)
    (step : ∀ w b r b', A w → P b → blockOp w b = .ok (r, b') → P b' ∧ Q w r)
    (ws : List CmdWord) (hA : ∀ w ∈ ws, A w) (b : Block) (rs : List Response) (b' : Block) (hP : P b)
    (h : runOps (ws.map blockOp) b = .ok (rs, b')) : P b' ∧ ∀ x ∈ ws.zip rs, Q x.1 x.2 := by
  induction ws generalizing b rs with
  | nil =>
    cases h
    simpa using hP
  | cons w ws ih =>
    simp only [List.map_cons, runOps] at h
    split at h
    · cases h
    · rename_i r b₁ hop
      split at h
      · cases h
      · rename_i rs' b₂ hrun
        cases h
        obtain ⟨h₁, h₂⟩ := step w b r b₁ (hA w List.mem_cons_self) hP hop
        obtain ⟨h₃, h₄⟩ := ih (fun w hw => hA w (List.mem_cons_of_mem _ hw)) b₁ rs' h₁ hrun
        refine ⟨h₃, fun x hx => ?_⟩
        simp only [List.zip_cons_cons, List.mem_cons] at hx
        rcases hx with rfl | hx
        · exact h₂
        · exact h₄ x hx

end Sys2Proof.Machine
end

