-- ==== Sys2Proof/Tests/Slice0.lean ====
section
/-!
SUPPORT. The model's own tests. Expected values come from the spec: words from spec/30_encoding.md, results from
spec/95_test_vectors.md (named at each group). The last part gives the witnesses: states and operands that meet the
hypotheses of the statements in Certificates/Slice0/Obligations.lean, clause by clause.
-/

namespace Sys2Proof.Tests

open Sys2Proof.Machine

/-- A state whose block is the reset block with some elements changed. -/
def stateWith (f : Block → Block) : State := { State.reset with block := f Block.reset }

/-- The next state of an outcome, if there is one. -/
def nextOf : Host.Outcome State Fault Refusal → Option State
  | .next t => some t
  | .fault _ => none
  | .refused _ => none

/-- The response port and one thing of the block after an instruction. -/
def observe {α : Type} (f : Block → α) (i : Instr) (s : State) : Option (Response × α) :=
  (nextOf (exec i s)).map fun t => (t.port, f t.block)

/-- A line of text as the assembler reads it. -/
def fromText (text : String) : Option Decoded :=
  match readLine text.toList with
  | .ok (some l) => some (decode (.line l))
  | .ok none => none
  | .error _ => none

/-- Assembler in LOAD with `n` parameters pushed, order code Status. -/
def loading (n : BitVec 4) : State := stateWith fun b => { b with ord := 0xC0, pcnt := n, txst := .load }

/-- The Status frame built, `n` bytes of it drawn. -/
def built (n : BitVec 4) : State :=
  stateWith fun b =>
    { b with
      ord := 0xC0, pcnt := 8, txst := .ready, txptr := n, acc := 0x14,
      txbuf := #v[0xFF, 0x55, 0xC0, 0, 0, 0, 0, 0, 0, 0, 0, 0x14] }

/-- Six bytes received: the Status answer FF 55 C0 01 03 and a checksum byte. -/
def received (c : Byte) : State :=
  stateWith fun b => { b with rxcnt := 6, rxbuf := #v[0xFF, 0x55, 0xC0, 0x01, 0x03, c] }

/-- A validated frame held. -/
def validated : State :=
  stateWith fun b =>
    { b with
      rxcnt := 6, rxbuf := #v[0xFF, 0x55, 0xC0, 0x01, 0x03, 0x18], acc := 0x18, p1 := 0x01, p2 := 0x03, pv := true }

/-- The parser holding `n` bytes. -/
def holding (n : BitVec 3) : State := stateWith fun b => { b with rxcnt := n }

/-! ### Well-formedness: one ill-formed term for each check (spec/44_commands.md R100) -/

theorem test_wf_req_order : (Instr.req 256 #v[0, 0, 0, 0, 0, 0, 0, 0]).wellFormed = false := by decide
theorem test_wf_req_param : (Instr.req 192 #v[0, 0, 0, 0, 0, 0, 0, -1]).wellFormed = false := by decide
theorem test_wf_req_ok : (Instr.req 255 #v[255, 0, 0, 0, 0, 0, 0, 255]).wellFormed = true := by decide
theorem test_wf_loadconfC : (Instr.loadconfC 256).wellFormed = false := by decide
theorem test_wf_loadconfN_small : (Instr.loadconfN (-1) 0 0).wellFormed = false := by decide
theorem test_wf_loadconfN_big : (Instr.loadconfN 0 256 0).wellFormed = false := by decide
theorem test_wf_loadconfN_time : (Instr.loadconfN 0 0 300).wellFormed = false := by decide
theorem test_wf_forward : (Instr.ctrlForward 256).wellFormed = false := by decide
theorem test_wf_back : (Instr.ctrlBack (-1)).wellFormed = false := by decide
theorem test_wf_left : (Instr.ctrlLeft 256).wellFormed = false := by decide
theorem test_wf_right : (Instr.ctrlRight (-1)).wellFormed = false := by decide

/-! ### Decoding: a word, frame or line written out from spec/30_encoding.md for every constructor -/

theorem test_decode_reserved0 : decode (.cmd 0b0000_11000011) = .instr .reserved0 := by decide
theorem test_decode_csclr : decode (.cmd 0b0001_10100111) = .instr .csclr := by decide
theorem test_decode_csadd : decode (.cmd 0b0010_11000000) = .instr (.csadd 0xC0) := by decide
theorem test_decode_csrd : decode (.cmd 0b0011_11111111) = .instr .csrd := by decide
theorem test_decode_txnew : decode (.cmd 0b0100_11000001) = .instr (.txnew 0xC1) := by decide
theorem test_decode_txpar : decode (.cmd 0b0101_00001111) = .instr (.txpar 0x0F) := by decide
theorem test_decode_txbuild : decode (.cmd 0b0110_00000000) = .instr .txbuild := by decide
theorem test_decode_txpop : decode (.cmd 0b0111_00000001) = .instr .txpop := by decide
theorem test_decode_rxnew : decode (.cmd 0b1000_00000000) = .instr .rxnew := by decide
theorem test_decode_rxpush : decode (.cmd 0b1001_00011000) = .instr (.rxpush 0x18) := by decide
theorem test_decode_rxdec : decode (.cmd 0b1010_00000000) = .instr .rxdec := by decide
theorem test_decode_rxp1 : decode (.cmd 0b1011_10000000) = .instr .rxp1 := by decide
theorem test_decode_rxp2 : decode (.cmd 0b1100_00000000) = .instr .rxp2 := by decide
theorem test_decode_errrd : decode (.cmd 0b1101_00000000) = .instr .errrd := by decide
theorem test_decode_errclr : decode (.cmd 0b1110_01010101) = .instr .errclr := by decide
theorem test_decode_reservedF : decode (.cmd 0b1111_00010010) = .instr .reservedF := by decide
theorem test_decode_reqStatus :
    decode (.reqFrame 0xFF_55_C0_00_00_00_00_00_00_00_00_14) = .instr (.reqStatus #v[0, 0, 0, 0, 0, 0, 0, 0]) := by
  decide
theorem test_decode_reqLoadconf :
    decode (.reqFrame 0xFF_55_C1_01_02_03_04_05_06_07_08_39) = .instr (.reqLoadconf #v[1, 2, 3, 4, 5, 6, 7, 8]) := by
  decide
theorem test_decode_reqControl :
    decode (.reqFrame 0xFF_55_C2_F0_00_00_00_00_00_00_00_06) = .instr (.reqControl #v[240, 0, 0, 0, 0, 0, 0, 0]) := by
  decide
theorem test_decode_reqFrame_bad :
    decode (.reqFrame 0xFF_55_C3_00_00_00_00_00_00_00_00_17) = .reject .notARequestFrame := by decide
theorem test_decode_rsp :
    decode (.rspFrame 0x12_34_56_78_9A_AE) = .instr (.rsp #v[0x12, 0x34, 0x56, 0x78, 0x9A, 0xAE]) := by decide
theorem test_decode_req :
    fromText "REQ LOADCONF, 1, 2, 3, 4, 5, 6, 7, 8" = some (.instr (.req 0xC1 #v[1, 2, 3, 4, 5, 6, 7, 8])) := by decide
theorem test_decode_qstatus : fromText "QSTATUS" = some (.instr .qstatus) := by decide
theorem test_decode_loadconfC : fromText "LOADCONF.C 30 ; thirty" = some (.instr (.loadconfC 30)) := by decide
theorem test_decode_loadconfN : fromText "LOADCONF.N 20, 0x2D,30" = some (.instr (.loadconfN 20 45 30)) := by decide
theorem test_decode_ctrlForward : fromText "  CTRL.FORWARD 15" = some (.instr (.ctrlForward 15)) := by decide
theorem test_decode_ctrlBack : fromText "CTRL.BACK 0xFF" = some (.instr (.ctrlBack 255)) := by decide
theorem test_decode_ctrlLeft : fromText "CTRL.LEFT 0" = some (.instr (.ctrlLeft 0)) := by decide
theorem test_decode_ctrlRight : fromText "CTRL.RIGHT 15" = some (.instr (.ctrlRight 15)) := by decide
theorem test_decode_ctrlCatch : fromText "CTRL.CATCH" = some (.instr .ctrlCatch) := by decide
theorem test_decode_unknown_command : fromText "CTRL.UP 3" = some (.reject .unknownCommand) := by decide
theorem test_decode_not_upper_case : fromText "csclr" = some (.reject .assemblyError) := by decide

/-! ### One step of each instruction (spec/95_test_vectors.md 2.2 to 2.8) -/

theorem test_csclr : observe Block.acc .csclr (stateWith fun b => { b with acc := 0x9C }) = some (⟨0, 0⟩, 0x00) := by
  decide
theorem test_csadd : observe Block.acc (.csadd 0xC0) (stateWith fun b => { b with acc := 0x54 }) = some (⟨0, 0⟩, 0x14) := by
  decide
theorem test_csadd_wraps :
    observe Block.acc (.csadd 0xFF) (stateWith fun b => { b with acc := 0xFF }) = some (⟨0, 0⟩, 0xFE) := by decide
theorem test_csrd : observe Block.acc .csrd (stateWith fun b => { b with acc := 0xEC }) = some (⟨0, 0xEC⟩, 0xEC) := by
  decide
theorem test_txnew : observe (fun b => (b.ord, b.pcnt, b.txst, b.txptr)) (.txnew 0xC0) (built 3) =
    some (⟨0, 0⟩, (0xC0, 0, .load, 3)) := by decide
theorem test_txnew_illegal : observe (fun b => (b.pcnt, b.txst, b.err)) (.txnew 0xFF) (loading 5) =
    some (⟨4, 0⟩, (5, .idle, 0x08)) := by decide
theorem test_txpar_last : observe (fun b => (b.par[7], b.pcnt)) (.txpar 0xAA) (loading 7) =
    some (⟨0, 0⟩, (0xAA, 8)) := by decide
theorem test_txpar_dropped : observe (fun b => (b.par[7], b.pcnt)) (.txpar 0xBB) (loading 8) =
    some (⟨0, 0⟩, (0x00, 9)) := by decide
theorem test_txbuild : observe (fun b => (b.txbuf.toList, b.acc, b.txptr, b.txst)) .txbuild (loading 8) =
    some (⟨0, 0⟩, ([0xFF, 0x55, 0xC0, 0, 0, 0, 0, 0, 0, 0, 0, 0x14], 0x14, 0, .ready)) := by decide
theorem test_txbuild_nine : observe (fun b => (b.txst, b.err)) .txbuild (loading 9) =
    some (⟨1, 0⟩, (.idle, 0x01)) := by decide
theorem test_txpop_last : observe (fun b => (b.txptr, b.txst)) .txpop (built 11) = some (⟨0, 0x14⟩, (12, .idle)) := by
  decide
theorem test_txpop_seq : observe (fun b => (b.txst, b.err)) .txpop (loading 0) = some (⟨5, 0⟩, (.load, 0x10)) := by
  decide
theorem test_rxnew : observe (fun b => (b.rxcnt, b.pv, b.p1)) .rxnew validated = some (⟨0, 0⟩, (0, false, 0x01)) := by
  decide
theorem test_rxpush : observe (fun b => (b.rxbuf[5], b.rxcnt)) (.rxpush 0x18) (holding 5) =
    some (⟨0, 0⟩, (0x18, 6)) := by decide
theorem test_rxpush_ovr : observe (fun b => (b.rxcnt, b.pv, b.err)) (.rxpush 0xAA) validated =
    some (⟨6, 0⟩, (6, true, 0x20)) := by decide
theorem test_rxdec_valid : observe (fun b => (b.p1, b.p2, b.pv, b.acc)) .rxdec (received 0x18) =
    some (⟨0, 0⟩, (0x01, 0x03, true, 0x18)) := by decide
theorem test_rxdec_cksum : observe (fun b => (b.pv, b.acc, b.err)) .rxdec (received 0x19) =
    some (⟨3, 0⟩, (false, 0x18, 0x04)) := by decide
theorem test_rxp1 : observe Block.pv .rxp1 validated = some (⟨0, 0x01⟩, true) := by decide
theorem test_rxp1_seq : observe Block.err .rxp1 (holding 4) = some (⟨5, 0⟩, 0x10) := by decide
theorem test_rxp2 : observe Block.pv .rxp2 validated = some (⟨0, 0x03⟩, true) := by decide
theorem test_rxp2_seq : observe Block.err .rxp2 State.reset = some (⟨5, 0⟩, 0x10) := by decide
theorem test_errrd : observe Block.err .errrd (stateWith fun b => { b with err := 0x7F }) = some (⟨0, 0x7F⟩, 0x7F) := by
  decide
theorem test_errclr : observe Block.err .errclr (stateWith fun b => { b with err := 0x05 }) = some (⟨0, 0⟩, 0x00) := by
  decide
theorem test_reserved0 : observe Block.err .reserved0 State.reset = some (⟨7, 0⟩, 0x40) := by decide
theorem test_reservedF : observe (fun b => (b.txst, b.txptr, b.err)) .reservedF (built 4) =
    some (⟨7, 0⟩, (.ready, 4, 0x40)) := by decide
theorem test_reqStatus :
    (nextOf (exec (.reqStatus #v[255, 255, 255, 255, 255, 255, 255, 255]) State.reset)).map
      (fun t => (t.resp.drop 10).map Response.dout) =
      some [0xFF, 0x55, 0xC0, 0xFF, 0xFF, 0xFF, 0xFF, 0xFF, 0xFF, 0xFF, 0xFF, 0x0C] := by decide
theorem test_reqLoadconf : observe (fun b => (b.txst, b.txptr, b.acc)) (.reqLoadconf #v[1, 2, 3, 4, 5, 6, 7, 8]) State.reset =
    some (⟨0, 0x39⟩, (.idle, 12, 0x39)) := by decide
theorem test_reqControl : observe (fun b => (b.txst, b.ord)) (.reqControl #v[0, 0, 1, 0, 0, 0, 0, 0]) (loading 3) =
    some (⟨0, 0x17⟩, (.idle, 0xC2)) := by decide
theorem test_rsp : observe (fun b => (b.p1, b.p2, b.pv)) (.rsp #v[0x00, 0x00, 0x00, 0x07, 0x09, 0x10]) State.reset =
    some (⟨0, 0⟩, (0x07, 0x09, true)) := by decide
theorem test_rsp_bad : observe (fun b => (b.pv, b.acc, b.err)) (.rsp #v[0x7F, 0x55, 0xC0, 0x01, 0x03, 0x18]) validated =
    some (⟨3, 0⟩, (false, 0x98, 0x04)) := by decide
theorem test_req : observe (fun b => b.txbuf.toList) (.req 0xC1 #v[1, 2, 3, 4, 5, 6, 7, 8]) State.reset =
    some (⟨0, 0⟩, [0xFF, 0x55, 0xC1, 1, 2, 3, 4, 5, 6, 7, 8, 0x39]) := by decide
theorem test_req_illegal : observe (fun b => (b.txst, b.err)) (.req 0xC3 #v[1, 2, 3, 4, 5, 6, 7, 8]) State.reset =
    some (⟨5, 0⟩, (.idle, 0x18)) := by decide
theorem test_qstatus : observe (fun b => b.txbuf.toList) .qstatus State.reset =
    some (⟨0, 0⟩, [0xFF, 0x55, 0xC0, 0, 0, 0, 0, 0, 0, 0, 0, 0x14]) := by decide
theorem test_loadconfC : observe (fun b => b.txbuf.toList) (.loadconfC 30) State.reset =
    some (⟨0, 0⟩, [0xFF, 0x55, 0xC1, 0x64, 0x64, 0x64, 0x64, 0x64, 0x64, 0x1E, 0x00, 0x8B]) := by decide
theorem test_loadconfN : observe (fun b => b.txbuf.toList) (.loadconfN 20 45 30) State.reset =
    some (⟨0, 0⟩, [0xFF, 0x55, 0xC1, 0x64, 0x64, 0x64, 0x14, 0x2D, 0x64, 0x1E, 0x00, 0x04]) := by decide
theorem test_ctrlForward : observe (fun b => b.txbuf.toList) (.ctrlForward 15) State.reset =
    some (⟨0, 0⟩, [0xFF, 0x55, 0xC2, 0x0F, 0, 0, 0, 0, 0, 0, 0, 0x25]) := by decide
theorem test_ctrlBack : observe (fun b => b.txbuf.toList) (.ctrlBack 200) State.reset =
    some (⟨0, 0⟩, [0xFF, 0x55, 0xC2, 0x37, 0, 0, 0, 0, 0, 0, 0, 0x4D]) := by decide
theorem test_ctrlLeft : observe (fun b => b.txbuf.toList) (.ctrlLeft 15) State.reset =
    some (⟨0, 0⟩, [0xFF, 0x55, 0xC2, 0, 0x0F, 0, 0, 0, 0, 0, 0, 0x25]) := by decide
theorem test_ctrlRight : observe (fun b => b.txbuf.toList) (.ctrlRight 0) State.reset =
    some (⟨0, 0⟩, [0xFF, 0x55, 0xC2, 0, 0xFF, 0, 0, 0, 0, 0, 0, 0x15]) := by decide
theorem test_ctrlCatch : observe (fun b => b.txbuf.toList) .ctrlCatch State.reset =
    some (⟨0, 0⟩, [0xFF, 0x55, 0xC2, 0, 0, 1, 0, 0, 0, 0, 0, 0x17]) := by decide
theorem test_ctrlBack_rejected : (nextOf (exec (.ctrlBack 256) validated)) =
    some { validated with report := some (.block .ipc) } := by decide

/-! ### The functions and the transaction (spec/95_test_vectors.md S1 to S7, 2.1, P1, P2) -/

theorem test_checksum_twenty : checksum (List.replicate 20 0xFF) = 0xEC := by decide
theorem test_checksum_with_itself : checksum [1, 2, 3, 6] = 0x0C := by decide
theorem test_decodeResponse_short : decodeResponse [0xFF, 0x55, 0xC0, 0x01] = .error .short := by decide
theorem test_decodeResponse_sum : decodeResponse [0xFF, 0xFF, 0xFF, 0xFF, 0xFF, 0xFB] = .ok (0xFF, 0xFF) := by decide
theorem test_xact_status :
    (xact ⟨true, some [0xFF, 0x55, 0xC0, 0x01, 0x03, 0x18]⟩ 0xC0 [0, 0, 0, 0, 0, 0, 0, 0] State.reset).map
      (fun o => (o.result, o.written)) =
      some (.ok 1 3, some [0xFF, 0x55, 0xC0, 0, 0, 0, 0, 0, 0, 0, 0, 0x14]) := by decide
theorem test_control_damaged :
    (moveOrControl ⟨true, some [0xFF, 0x55, 0xC2, 0x01, 0x00, 0x18]⟩ "BACK" 15 State.reset).map
      (fun o => (o.result, o.final.block.acc, o.final.block.err)) = some (.error (.block .cksum), 0x17, 0x04) := by decide

/-! ### Fetching (log entry 8) -/

theorem test_table_csadd : decodeTableWord 16 0x2C0 = some (.csadd 0xC0) := by decide
theorem test_table_reqControl :
    decodeTableWord 96 0xFF55C2000000000000000000 = some (.reqControl #v[0, 0, 0, 0, 0, 0, 0, 0]) := by decide
theorem test_table_qstatus :
    decodeTableWord 96 0xFF55C0000000000000000014 = some (.reqStatus #v[0, 0, 0, 0, 0, 0, 0, 0]) := by decide
theorem test_table_bad_checksum : decodeTableWord 96 0xFF55C0000000000000000015 = none := by decide
theorem test_fetch : (nextOf (step (State.reset.withFetchWord 16 0x2AB))).map (fun t => (t.block.acc, t.pending)) =
    some (0xAB, []) := by decide
theorem test_fetch_frame :
    (nextOf (step (State.reset.withFetchWord 48 0xFF55C0010318))).map (fun t => (t.block.p1, t.block.p2, t.block.pv)) =
      some (0x01, 0x03, true) := by decide

/-! ### Witnesses: concrete states and operands that meet the hypotheses of each statement -/

theorem exists_next {o : Host.Outcome State Fault Refusal} {P : State → Bool} (h : (nextOf o).map P = some true) :
    ∃ t, o = .next t ∧ P t = true := by
  cases o with
  | next t => exact ⟨t, rfl, by simpa [nextOf] using h⟩
  | fault f => simp [nextOf] at h
  | refused r => simp [nextOf] at h

/-- The fault of an outcome, if it is one. -/
def faultOf : Host.Outcome State Fault Refusal → Option Fault
  | .next _ => none
  | .fault f => some f
  | .refused _ => none

theorem fault_of {o : Host.Outcome State Fault Refusal} {f : Fault} (h : faultOf o = some f) : o = .fault f := by
  cases o <;> simp_all [faultOf]

theorem witness_CsrdReadsTheAccumulator_txbuild : ∃ t, exec .txbuild (loading 8) = .next t ∧ (t.port.stat == 0) = true :=
  exists_next (by decide)
theorem witness_CsrdReadsTheAccumulator_rxdec :
    6 ≤ (received 0x19).block.rxcnt.toNat ∧ ∃ t, exec .rxdec (received 0x19) = .next t ∧ true = true :=
  ⟨by decide, exists_next (by decide)⟩
theorem witness_StreamComputesTheChecksum :
    (built 3).Inv ∧ Avoids [0x1, 0x6, 0xA] [0x2FF, 0x700, 0x2FF, 0xF00, 0x9AA] := ⟨by decide, by simp [Avoids, cmdOp]⟩
theorem witness_TxnewStartsARequestOrIsIllegal_legal (o : Byte) (h : o = 0xC0 ∨ o = 0xC1 ∨ o = 0xC2) :
    isOrderCode o = true := by
  rcases h with rfl | rfl | rfl <;> decide
theorem witness_TxnewStartsARequestOrIsIllegal_illegal :
    ∀ o ∈ [(0xBF : Byte), 0xC3, 0x00, 0xFF], o ≠ 0xC0 ∧ o ≠ 0xC1 ∧ o ≠ 0xC2 := by decide
theorem witness_TxparPushesAParameter_seq : State.reset.block.txst ≠ .load ∧ (built 3).block.txst ≠ .load := by decide
theorem witness_TxparPushesAParameter_load :
    ∀ n ∈ [(0 : BitVec 4), 7, 8, 9], (loading n).block.txst = .load ∧ (loading n).Inv := by decide
theorem witness_TxbuildChecksAndBuildsTheFrame_seq : (built 11).block.txst ≠ .load := by decide
theorem witness_TxbuildChecksAndBuildsTheFrame_ipc :
    ∀ n ∈ [(0 : BitVec 4), 7, 9], (loading n).block.txst = .load ∧ (loading n).block.pcnt ≠ 8 := by decide
theorem witness_TxbuildChecksAndBuildsTheFrame_full :
    (loading 8).block.txst = .load ∧ (loading 8).block.pcnt = 8 ∧ (loading 8).block.ord = 0xC0 ∧
      (loading 8).block.par = #v[0, 0, 0, 0, 0, 0, 0, 0] ∧ (0x14 : Byte).toNat = (0xFF + 0x55 + (0xC0 : Byte).toNat) % 256 := by
  decide
theorem witness_TxpopDeliversTheNextByte :
    (loading 8).block.txst ≠ .ready ∧
      ∀ n ∈ [(0 : BitVec 4), 11], (built n).block.txptr.toNat < 12 ∧ (built n).block.txst = .ready := by decide
theorem witness_IndexOutsideABufferStops :
    (built 12).block.txst = .ready ∧ 12 ≤ (built 12).block.txptr.toNat ∧ (holding 7).block.rxcnt = 7 ∧
      exec (decodeCmd 0x700) (built 12) = .fault .txIndexOutOfRange ∧
      exec (decodeCmd 0x9AA) (holding 7) = .fault .rxIndexOutOfRange :=
  ⟨by decide, by decide, by decide, fault_of (by decide), fault_of (by decide)⟩
theorem witness_AssemblerTransitionTable : ∃ t, exec (decodeCmd 0x700) (built 11) = .next t ∧ (t.block.txst == .idle) = true :=
  exists_next (by decide)
theorem witness_OnlyABuiltFrameIsDelivered_built :
    (loading 8).Inv ∧ (loading 8).block.txst ≠ .ready ∧
      ∃ t, exec (decodeCmd 0x600) (loading 8) = .next t ∧ (t.block.txst == .ready) = true :=
  ⟨by decide, by decide, exists_next (by decide)⟩
theorem witness_OnlyABuiltFrameIsDelivered_popped : ∃ t, exec .txpop (built 0) = .next t ∧ (t.port.stat == 0) = true :=
  exists_next (by decide)
theorem witness_ParameterCountSaturates :
    (built 2).Inv ∧ Avoids [0x4, 0x6] [0x501, 0x502, 0x700, 0x503, 0x504, 0x505, 0x506, 0x507, 0x508, 0xE00, 0x509, 0x50A] :=
  ⟨by decide, by simp [Avoids, cmdOp]⟩
theorem witness_AssemblerComputesEncodeRequest_eight :
    validated.Inv ∧ Avoids [0x4, 0x6] [0x501, 0x502, 0x300, 0x503, 0x504, 0x505, 0x506, 0x507, 0x508] ∧
      (operandsOf 0x5 [0x501, 0x502, 0x300, 0x503, 0x504, 0x505, 0x506, 0x507, 0x508]).length = 8 ∧
      Avoids [0x4] (0xD00 :: List.replicate 12 0x700) ∧ (operandsOf 0x7 (0xD00 :: List.replicate 12 0x700)).length ≤ 12 :=
  ⟨by decide, by simp [Avoids, cmdOp], by decide, by simp [Avoids, cmdOp], by decide⟩
theorem witness_AssemblerComputesEncodeRequest_ipc :
    Avoids [0x4, 0x6] [0x501, 0x502, 0x503] ∧
      encodeRequest .status (operandsOf 0x5 [0x501, 0x502, 0x503]) = .error .ipc ∧ Avoids [0x4] [0x700, 0x600, 0x700] :=
  ⟨by simp [Avoids, cmdOp], by decide, by simp [Avoids, cmdOp]⟩
theorem witness_EncodeRequestIsInjective :
    ([1, 2, 3, 4, 5, 6, 7] : List Byte).length ≠ 8 ∧ ([1, 2, 3, 4, 5, 6, 7, 8, 9] : List Byte).length ≠ 8 ∧
      ([1, 2, 3, 4, 5, 6, 7, 8] : List Byte).length = 8 ∧
      encodeRequest .loadConf [1, 2, 3, 4, 5, 6, 7, 8] = .ok [0xFF, 0x55, 0xC1, 1, 2, 3, 4, 5, 6, 7, 8, 0x39] := by decide
theorem witness_RxpushStoresTheNextByte :
    (received 0x18).block.rxcnt = 6 ∧ (holding 0).block.rxcnt.toNat < 6 ∧ (holding 5).block.rxcnt.toNat < 6 := by decide
theorem witness_RxdecValidatesTheFrame :
    (holding 0).block.rxcnt.toNat < 6 ∧ (holding 5).block.rxcnt.toNat < 6 ∧
      6 ≤ (received 0x19).block.rxcnt.toNat ∧
      (received 0x19).block.rxbuf = #v[0xFF, 0x55, 0xC0, 0x01, 0x03, 0x19] ∧
      (0x18 : Byte).toNat = (0xFF + 0x55 + 0xC0 + 0x01 + 0x03) % 256 := by decide
theorem witness_PayloadIsReadOnlyWhenValid : validated.block.pv = true ∧ (received 0x18).block.pv = false := by decide
theorem witness_ParserComputesDecodeResponse :
    (built 3).Inv ∧ Avoids [0x8, 0xA] [0x9FF, 0x955, 0x700, 0x9C0, 0x901, 0x903, 0x918] ∧
      decodeResponse (operandsOf 0x9 [0x9FF, 0x955, 0x700, 0x9C0, 0x901, 0x903, 0x918]) = .ok (0x01, 0x03) ∧
      Avoids [0x8, 0xA] [0x9FF] ∧ decodeResponse (operandsOf 0x9 [0x9FF]) = .error .short ∧
      Avoids [0x8, 0x9, 0xA] [0xC00, 0xB00, 0x2AA, 0xB00] :=
  ⟨by decide, by simp [Avoids, cmdOp], by decide, by simp [Avoids, cmdOp], by decide, by simp [Avoids, cmdOp]⟩
theorem witness_ReceivedBytesAreHeldInOrder :
    validated.Inv ∧ Avoids [0x8] [0x9FF, 0x955, 0xA00, 0x9C0, 0x901, 0x903, 0x918, 0x919] :=
  ⟨by decide, by simp [Avoids, cmdOp]⟩
theorem witness_ChecksumGateCatchesOneByte_single :
    decodeResponse (#v[0xFF, 0x55, 0xC0, 0x01, 0x03, 0x18] : Vector Byte 6).toList = .ok (0x01, 0x03) ∧
      (#v[0xFF, 0x55, 0xC0, 0x01, 0x04, 0x18] : Vector Byte 6)[4] ≠ (#v[0xFF, 0x55, 0xC0, 0x01, 0x03, 0x18] : Vector Byte 6)[4] ∧
      ∀ (j : Nat) (hj : j < 6), j ≠ 4 →
        (#v[0xFF, 0x55, 0xC0, 0x01, 0x04, 0x18] : Vector Byte 6)[j] = (#v[0xFF, 0x55, 0xC0, 0x01, 0x03, 0x18] : Vector Byte 6)[j] := by
  decide
theorem witness_ChecksumGateCatchesOneByte_permuted :
    ([0xFF, 0x55, 0xC0, 0x01, 0x03] : List Byte).Perm [0x55, 0xFF, 0xC0, 0x03, 0x01] ∧
      decodeResponse [0xFF, 0x55, 0xC0, 0x01, 0x03, 0x18] = .ok (0x01, 0x03) := by decide
theorem witness_ChecksumGateCatchesOneByte_cancelling :
    checksum [0xFF, 0x55, 0xC1, 0x01, 0x01] - 0x17 = checksum [0xFF, 0x55, 0xC0, 0x01, 0x03] - 0x18 ∧
      decodeResponse [0xFF, 0x55, 0xC0, 0x01, 0x03, 0x18] = .ok (0x01, 0x03) := by decide
theorem witness_RxdecIsIdempotent :
    (∃ t, exec .rxdec (received 0x18) = .next t ∧ (t.port.stat == 0) = true) ∧
      (∃ t, exec .rxdec (received 0x19) = .next t ∧ (t.port.stat == 3) = true) ∧
      ∃ t, exec .rxdec (holding 5) = .next t ∧ (t.port.stat == 2) = true :=
  ⟨exists_next (by decide), exists_next (by decide), exists_next (by decide)⟩
theorem witness_MissingRxnewDeliversAStalePayload : validated.Inv ∧ validated.block.pv = true := by decide
theorem witness_ErrrdReadsTheFlags :
    (stateWith fun b => { b with err := 0x7F }).Inv ∧
      ∃ t, exec .errrd (stateWith fun b => { b with err := 0x7F }) = .next t ∧ (t.port.dout == 0x7F) = true :=
  ⟨by decide, exists_next (by decide)⟩
theorem witness_ErrorsAreReportedPrecisely :
    (∃ t, exec (decodeCmd 0x4C3) State.reset = .next t ∧ (t.port.stat == 4) = true) ∧
      ∃ t, exec (decodeCmd 0x4C0) State.reset = .next t ∧ (t.port.stat == 0) = true :=
  ⟨exists_next (by decide), exists_next (by decide)⟩
theorem witness_FlagsAreStickyAndNeverTested :
    decodeCmd 0x700 ≠ .errclr ∧ decodeCmd 0x700 ≠ .errrd ∧
      (stateWith fun b => { b with err := 0x08 }).block.err.getLsbD 3 = true ∧
      ∃ t, exec (decodeCmd 0x700) (stateWith fun b => { b with err := 0x08 }) = .next t ∧ (t.block.err == 0x18) = true :=
  ⟨by decide, by decide, by decide, exists_next (by decide)⟩
theorem witness_AccessMatrixWrites :
    (∃ t, exec (decodeCmd 0x3FF) validated = .next t ∧ true = true) ∧ cmdOp 0x3FF = 0x3 ∧
      ∀ l ∈ [[(0x1 : BitVec 4), 0x2, 0x6, 0xA], [0x4], [0x5], [0x4, 0x5], [0x6], [0x4, 0x6, 0x7], [0x6, 0x7], [0x9],
        [0x8, 0x9], [0xA], [0x8, 0xA], [0x0, 0x4, 0x5, 0x6, 0x7, 0x9, 0xA, 0xB, 0xC, 0xE, 0xF]], (0x3 : BitVec 4) ∉ l :=
  ⟨exists_next (by decide), by decide, by decide⟩
theorem witness_AssemblerAndParserShareNothing :
    cmdOp 0xA00 ∈ [0x8, 0x9, 0xA, 0xB, 0xC] ∧ (received 0x18).block.rxbuf = (received 0x18).block.rxbuf ∧
      (∃ t, exec (decodeCmd 0xA00) (received 0x18) = .next t ∧ true = true) ∧
      cmdOp 0x600 ∈ [0x4, 0x5, 0x6, 0x7] ∧
      (∃ t, exec (decodeCmd 0x600) (loading 8) = .next t ∧ true = true) ∧
      (loading 8).block.par = { (loading 8).block with acc := 0x77, rxcnt := 6, pv := false }.par :=
  ⟨by decide, by decide, exists_next (by decide), by decide, exists_next (by decide), by decide⟩
theorem witness_RequestFrameRowsSendTheFrame (p : Vector Byte 8) :
    (OrderCode.control, Instr.reqControl p) ∈
      [(.status, .reqStatus p), (.loadConf, .reqLoadconf p), (.control, .reqControl p)] := by simp
theorem witness_ResponseFrameRowIsDecodeResponse :
    decodeResponse (#v[0xFF, 0x55, 0xC0, 0x01, 0x03, 0x18] : Vector Byte 6).toList = .ok (0x01, 0x03) ∧
      decodeResponse (#v[0xFF, 0x55, 0xC0, 0x01, 0x03, 0x19] : Vector Byte 6).toList = .error .cksum := by decide
theorem witness_ReqAssemblesAnyRequest :
    (0x0D : Byte).toNat =
        (84 + (0xC1 : Byte).toNat + ((#v[255, 255, 255, 255, 255, 255, 255, 255] : Vector Byte 8).toList.map BitVec.toNat).sum) % 256 ∧
      (0xC3 : Byte) ≠ 0xC0 ∧ (0xC3 : Byte) ≠ 0xC1 ∧ (0xC3 : Byte) ≠ 0xC2 := by decide
theorem witness_LoadconfAssemblesItsLayouts :
    (0x6C : Byte).toNat = (109 + (255 : Byte).toNat) % 256 ∧
      (0x04 : Byte).toNat = (165 + (20 : Byte).toNat + (45 : Byte).toNat + (30 : Byte).toNat) % 256 := by decide
theorem witness_ControlCommandsAssembleTheirLayouts :
    (0x15 : Byte).toNat = (22 + (255 : Byte).toNat) % 256 ∧ (0xFF : Byte).toNat = 255 - (0 : Byte).toNat ∧
      (0x00 : Byte).toNat = 255 - (255 : Byte).toNat ∧ (0x16 : Byte).toNat = (22 + (0x00 : Byte).toNat) % 256 := by decide
theorem witness_NegativeDisplacementIsComplement :
    (0 : Int) ≤ 0 ∧ (0 : Int) ≤ 255 ∧ (255 : Int) ≤ 255 ∧ (127 : Byte).toNat ≤ 127 ∧ ¬ (128 : Byte).toNat ≤ 127 := by decide
theorem witness_EveryRowIsTheRunOfItsWords :
    (Instr.ctrlBack 255).wellFormed = true ∧ (Instr.reqStatus #v[1, 2, 3, 4, 5, 6, 7, 8]).wellFormed = true ∧
      (runWords (encodeWords (.ctrlBack 255)) State.reset).isSome = true ∧
      runWords (encodeWords .txpop) (built 12) = none := by decide
theorem witness_XactLeavesTheBlockReady_ok :
    validated.Inv ∧
      (xact ⟨true, some [0xFF, 0x55, 0xC2, 0x01, 0x00, 0x17]⟩ 0xC2 [1, 2, 3, 4, 5, 6, 7, 8] validated).map XactOut.result =
        some (.ok 0x01 0x00) := by decide
theorem witness_XactLeavesTheBlockReady_ipc :
    (xact ⟨true, none⟩ OrderCode.status.byte [1, 2, 3, 4, 5, 6, 7] validated).map XactOut.result =
      some (.error (.block .ipc)) := by decide
theorem witness_XactLeavesTheBlockReady_short :
    (xact ⟨true, some [0xFF, 0x55, 0xC0, 0x01]⟩ OrderCode.status.byte [0, 0, 0, 0, 0, 0, 0, 0] validated).map XactOut.result =
      some (.error (.block .short)) := by decide
theorem witness_XactLeavesTheBlockReady_cksum :
    (xact ⟨true, some [0xFF, 0x55, 0xC0, 0x00, 0x00, 0x15]⟩ OrderCode.status.byte [0, 0, 0, 0, 0, 0, 0, 0] validated).map
      XactOut.result = some (.error (.block .cksum)) := by decide
theorem witness_XactLeavesTheBlockReady_transport :
    (xact ⟨false, none⟩ OrderCode.status.byte [0, 0, 0, 0, 0, 0, 0, 0] validated).map XactOut.result =
        some (.error .transportFailure) ∧
      (xact ⟨true, none⟩ OrderCode.status.byte [0, 0, 0, 0, 0, 0, 0, 0] validated).map XactOut.result =
        some (.error .transportFailure) := by decide
theorem witness_XactComputesExecute :
    State.reset.Inv ∧ ∀ r ∈ some ([0xFF, 0x55, 0xC0, 0x00, 0x00, 0x14] : List Byte), r.length ≤ 6 :=
  ⟨by decide, by simp⟩
theorem witness_UnknownCommandWritesNothing :
    "JUMP" ∉ ["FORWARD", "BACK", "LEFT", "RIGHT", "CATCH"] ∧
      (State.reset.withProgram [⟨"CTRL.JUMP", [.num 3]⟩]).pending = [.line ⟨"CTRL.JUMP", [.num 3]⟩] := by decide
theorem witness_BoardStatusIsClassified : 5 ≤ (5 : Byte).toNat ∧ 5 ≤ (255 : Byte).toNat := by decide
theorem witness_OperationIsSelectedByItsCode :
    cmdOp 0x1A7 = cmdOp 0x100 ∧ cmdOp 0x1A7 ∉ [0x2, 0x4, 0x5, 0x9] := by decide
theorem witness_StepRunsTheDecodedInstruction :
    (State.reset.withFetchWord 16 0x2AB).pending = [.cmd 0x2AB] ∧ decode (.cmd 0x2AB) = .instr (.csadd 0xAB) ∧
      decode .rst = .reset ∧ decode (.line ⟨"CTRL.JUMP", []⟩) = .reject .unknownCommand ∧ State.reset.pending = [] := by
  decide
theorem witness_ResetEventClearsTheControlState : { validated with pending := [.rst] }.pending = Input.rst :: [] := by
  decide
theorem witness_StepKeepsTheInvariant :
    (State.reset.withFetchWord 16 0x2AB).Inv ∧
      ∃ t, step (State.reset.withFetchWord 16 0x2AB) = .next t ∧ (t.block.acc == 0xAB) = true :=
  ⟨by decide, exists_next (by decide)⟩
theorem witness_EveryStepCompletes : (built 11).Inv ∧ validated.Inv ∧ (loading 9).Inv :=
  ⟨by decide, by decide, by decide⟩
theorem witness_UnspecifiedRegistersAreUnobservable :
    validated.block.SameLive { validated.block with txbuf := #v[1, 2, 3, 4, 5, 6, 7, 8, 9, 10, 11, 12], ord := 0x77 } where
  acc := rfl
  pcnt := rfl
  txst := rfl
  txptr := rfl
  rxcnt := rfl
  pv := rfl
  err := rfl
  ord := fun h => by cases h
  par := fun h => by cases h
  txbuf := fun h => by cases h
  rxbuf := fun _ _ => rfl
  p1 := fun _ => rfl
  p2 := fun _ => rfl

end Sys2Proof.Tests
end

/-!
PROOFS. The scope family (spec/00_scope.md): what one step does with the thing presented, that every row of the opcode
table is the run of its command words, and that a step from a state meeting the invariant completes and keeps it.
-/

namespace Sys2Proof.Machine

open Sys2Proof

/-! ### One step, by what is presented -/

section

variable {s : State} {x : Input} {rest : List Input}

theorem step_of_pending_nil (h : s.pending = []) : step s = .next s := by simp [step, h]

theorem step_of_instr {i : Instr} (h : s.pending = x :: rest) (hd : decode x = .instr i) :
    step s = exec i { s with pending := rest } := by
  simp [step, h, hd]

theorem step_of_reset (h : s.pending = x :: rest) (hd : decode x = .reset) :
    step s = .next { s with pending := rest }.resetEvent := by
  simp [step, h, hd]

theorem step_of_reject {e : HostError} (h : s.pending = x :: rest) (hd : decode x = .reject e) :
    step s = .next ({ s with pending := rest }.reject e) := by
  simp [step, h, hd]

end

/-! ### Every row is the checked issue of its command words -/

section

variable {i : Instr} {s : State}

theorem exec_of_operation {w : CmdWord} (hn : i.hostOperands = []) (he : expand i = [i])
    (ho : operationWord i = some w) :
    exec i s = s.issueChecked i.hostOperands ((encodeWords i).map blockOp) := by
  have hw : encodeWords i = [w] := by simp [encodeWords, he, ho]
  rw [hn, hw, issueChecked_inRange _ _ rfl, List.map_singleton, ← exec_decodeCmd, decodeCmd_operationWord ho]

/-- A row whose operands need no check: it is enough that it issues the operations of its expansion. -/
theorem exec_of_unchecked {ops : List BlockOp} (hn : i.hostOperands = [])
    (he : ((expand i).filterMap operationWord).map blockOp = ops) (hx : exec i s = s.issue ops) :
    exec i s = s.issueChecked i.hostOperands ((encodeWords i).map blockOp) := by
  rw [hx, hn, issueChecked_inRange _ _ rfl, encodeWords, he]

/-- A pseudo-operation with operands: where one is out of range both sides are the host's rejection. -/
theorem exec_of_checked {o : Byte} {p : Vector Byte 8}
    (he : expand i = checkedExpansion i.hostOperands (requestExpansion o p))
    (hx : exec i s = s.issueChecked i.hostOperands (requestOps o p)) :
    exec i s = s.issueChecked i.hostOperands ((encodeWords i).map blockOp) := by
  cases hr : operandsInRange i.hostOperands with
  | false => rw [hx, issueChecked_outOfRange _ _ hr, issueChecked_outOfRange _ _ hr]
  | true => rw [hx, encodeWords, he, checkedExpansion, if_pos hr, requestExpansion_ops]

end

/-- Executing a row is checking its operands and then issuing its command words (spec/44_commands.md R100). -/
theorem exec_eq_issueChecked (i : Instr) (s : State) :
    exec i s = s.issueChecked i.hostOperands ((encodeWords i).map blockOp) := by
  cases i with
  | csclr | csadd | csrd | txnew | txpar | txbuild | txpop | rxnew | rxpush | rxdec | rxp1 | rxp2 | errrd | errclr
  | reserved0 | reservedF => exact exec_of_operation rfl rfl rfl
  | reqStatus | reqLoadconf | reqControl => exact exec_of_unchecked rfl (frameExpansion_ops _ _) rfl
  | rsp r => exact exec_of_unchecked rfl (responseExpansion_ops r) rfl
  | qstatus | ctrlCatch => exact exec_of_unchecked rfl (requestExpansion_ops _ _) rfl
  | req | loadconfC | loadconfN | ctrlForward | ctrlBack | ctrlLeft | ctrlRight => exact exec_of_checked rfl rfl

theorem exec_of_wellFormed {i : Instr} (s : State) (h : i.wellFormed = true) :
    exec i s = s.issue ((encodeWords i).map blockOp) := by
  rw [exec_eq_issueChecked, issueChecked_inRange _ _ h]

theorem exec_of_illFormed {i : Instr} (s : State) (h : i.wellFormed = false) :
    exec i s = .next (s.reject (.block .ipc)) := by
  rw [exec_eq_issueChecked, issueChecked_outOfRange _ _ h]

/-! ### Every command word keeps the invariant (spec/10_state.md R30), clause by clause -/

/-- No cause sets bit 7 of ERR (spec/10_state.md R25). -/
theorem setFlag_bit7 (e : Byte) (c : Cause) : (setFlag e c).getLsbD 7 = e.getLsbD 7 := by
  rw [setFlag_getLsbD]
  cases c <;> simp [Cause.code]

theorem saturatedSucc_toNat (n : BitVec 4) : (saturatedSucc n).toNat = min (n.toNat + 1) 9 := by
  rw [saturatedSucc, BitVec.toNat_ofNat]
  omega

section

variable {w : CmdWord} {b b' : Block} {r : Response}

theorem WordOutcome.keeps_counters (h : WordOutcome w b (.ok (r, b'))) (hb : b.CountersInRange) :
    b'.CountersInRange := by
  obtain ⟨hpcnt, hptr, hcnt, herr⟩ := hb
  have hflag (c : Cause) : (setFlag b.err c).getLsbD 7 = false := (setFlag_bit7 b.err c).trans herr
  cases h
  case txnew => exact ⟨by simp, hptr, hcnt, herr⟩
  case txpar => exact ⟨by rw [saturatedSucc_toNat]; omega, hptr, hcnt, herr⟩
  case txbuild => exact ⟨hpcnt, by simp, hcnt, herr⟩
  case txpop hp => exact ⟨hpcnt, by bv_omega, hcnt, herr⟩
  case rxnew => exact ⟨hpcnt, hptr, by simp, herr⟩
  case rxpush hc => exact ⟨hpcnt, hptr, by bv_omega, herr⟩
  case errclr => exact ⟨hpcnt, hptr, hcnt, by simp⟩
  case csclr | csadd | csrd | rxdec | rxp1 | rxp2 | errrd => exact ⟨hpcnt, hptr, hcnt, herr⟩
  all_goals exact ⟨hpcnt, hptr, hcnt, hflag _⟩

theorem WordOutcome.keeps_loadHasOrder (h : WordOutcome w b (.ok (r, b'))) (hb : b.LoadHasOrder) :
    b'.LoadHasOrder := by
  cases h
  case txnew ho => exact fun _ => ho
  case illord | ipc | txbuild => exact nofun
  case txpop =>
    intro hl
    split at hl <;> cases hl
  all_goals exact hb

/-- READY is entered by TXBUILD alone, on a legal order code, and left by the twelfth TXPOP. -/
theorem WordOutcome.keeps_readyHoldsFrame (h : WordOutcome w b (.ok (r, b'))) (hb : b.ReadyHoldsFrame)
    (hload : b.LoadHasOrder) : b'.ReadyHoldsFrame := by
  cases h
  case txnew | illord | ipc => exact nofun
  case txpar hs => exact fun hr => absurd (hs.symm.trans hr) nofun
  case txbuild hs hc => exact fun _ => ⟨by simp, hc, hload hs, rfl⟩
  case txpop hs hp =>
    intro hr
    have hlast : b.txptr + 1 ≠ 12 := by simpa using hr
    exact ⟨by bv_omega, (hb hs).2⟩
  all_goals exact hb

/-- A byte is stored only where RXCNT is below 6, so never under a validated payload. -/
theorem WordOutcome.keeps_payload (h : WordOutcome w b (.ok (r, b'))) (hb : b.PayloadIsValidated)
    (hcnt : b.rxcnt.toNat ≤ 6) : b'.PayloadIsValidated := by
  cases h
  case rxnew | short | cksum => exact nofun
  case rxpush hc =>
    intro hv
    have h6 : b.rxcnt = 6 := (hb hv).1
    simp [h6] at hc
  case rxdec hc hs => exact fun _ => ⟨by bv_omega, hs.symm, rfl, rfl⟩
  all_goals exact hb

theorem WordOutcome.keeps_inv (h : WordOutcome w b (.ok (r, b'))) (hb : b.Inv) : b'.Inv := by
  obtain ⟨hcounters, hready, hpayload, hload⟩ := hb
  have ⟨_, _, hcnt, _⟩ := hcounters
  exact ⟨h.keeps_counters hcounters, h.keeps_readyHoldsFrame hready hload, h.keeps_payload hpayload hcnt,
    h.keeps_loadHasOrder hload⟩

/-- Under the invariant no index falls outside TXBUF or RXBUF (spec/20_memory.md R34). -/
theorem WordOutcome.no_fault {f : Fault} (h : WordOutcome w b (.error f)) (hb : b.Inv) : False := by
  obtain ⟨⟨-, -, hcnt, -⟩, hready, -, -⟩ := hb
  cases h with
  | txIndex _ hs hp =>
    obtain ⟨hptr, -⟩ := hready hs
    omega
  | rxIndex _ hc => simp [hc] at hcnt

end

/-- From a block meeting the invariant every command word answers, and keeps the invariant. -/
theorem blockOp_answers (w : CmdWord) {b : Block} (hb : b.Inv) : ∃ r b', blockOp w b = .ok (r, b') ∧ b'.Inv := by
  have hcases := blockOp_cases w b
  cases hop : blockOp w b with
  | error f => exact ((hop ▸ hcases).no_fault hb).elim
  | ok a => exact ⟨a.1, a.2, rfl, (hop ▸ hcases).keeps_inv hb⟩

/-! ### Every step completes and keeps the invariant -/

/-- From a block meeting the invariant every sequence of command words answers, and keeps the invariant. -/
theorem runOps_words_answers (ws : List CmdWord) {b : Block} (hb : b.Inv) :
    ∃ rs b', runOps (ws.map blockOp) b = .ok (rs, b') ∧ b'.Inv := by
  refine runOps_answers Block.Inv (fun op hop b hb => ?_) hb
  obtain ⟨w, -, rfl⟩ := List.mem_map.mp hop
  exact blockOp_answers w hb

theorem exec_answers (i : Instr) {s : State} (hs : s.Inv) : ∃ t, exec i s = .next t ∧ t.Inv := by
  cases hw : i.wellFormed with
  | false => exact ⟨_, exec_of_illFormed s hw, hs⟩
  | true =>
    obtain ⟨rs, b, hrun, hb⟩ := runOps_words_answers (encodeWords i) hs
    exact ⟨s.answered rs b, (exec_of_wellFormed s hw).trans (issue_of_run hrun), hb⟩

theorem resetBlock_inv (s : State) : s.resetBlock.Inv :=
  ⟨⟨by simp, by simp, by simp, by simp⟩, nofun, nofun, nofun⟩

/-- A step from a state meeting the invariant is a next state that meets it (spec/00_scope.md R11). -/
theorem step_answers {s : State} (hs : s.Inv) : ∃ t, step s = .next t ∧ t.Inv := by
  cases hp : s.pending with
  | nil => exact ⟨s, step_of_pending_nil hp, hs⟩
  | cons x rest =>
    cases hd : decode x with
    | instr i =>
      rw [step_of_instr hp hd]
      exact exec_answers i hs
    | reset => exact ⟨_, step_of_reset hp hd, resetBlock_inv _⟩
    | reject e => exact ⟨_, step_of_reject hp hd, hs⟩

/-- Settles O56: what is presented decodes to a row, reset or a rejection, and a row is a run of command words, none of
which can form an index outside a buffer under the invariant. -/
theorem everyStepCompletes : Obligations.EveryStepCompletes := by
  intro s hs
  obtain ⟨t, ht, -⟩ := step_answers hs
  exact ⟨t, ht⟩

/-- Settles O51, one equation of `step` for each thing that can be presented. -/
theorem stepRunsTheDecodedInstruction : Obligations.StepRunsTheDecodedInstruction :=
  ⟨fun _ _ _ _ => step_of_instr, fun _ _ _ => step_of_reset, fun _ _ _ _ => step_of_reject,
    fun _ => step_of_pending_nil⟩

end Sys2Proof.Machine

/-!
PROOFS. The state family (spec/10_state.md): the invariant and the reset values, which element a command word may write,
that neither unit reads an element of the other, that the received bytes are held in order, and that what R31 calls
unspecified is never observed.
-/

namespace Sys2Proof.Machine

open Sys2Proof

/-! ### The invariant and the reset values (spec/10_state.md R30, R33) -/

/-- Settles O55: a step from a state meeting the invariant has a next state that meets it, and it has no other. -/
theorem stepKeepsTheInvariant : Obligations.StepKeepsTheInvariant := by
  intro s t hs hstep
  obtain ⟨u, hu, hinv⟩ := step_answers hs
  cases hu.symm.trans hstep
  exact hinv

/-- Settles O52: the event is decoded to the reset block, whose control elements are constants. -/
theorem resetEventClearsTheControlState : Obligations.ResetEventClearsTheControlState :=
  fun _ _ hp => ⟨_, step_of_reset hp rfl, rfl, rfl, rfl, rfl, rfl, rfl, rfl, rfl, rfl⟩

/-- Settles O54: with TXST idle and PV clear only the ranges of the counters are left to check. -/
theorem resetMeetsTheInvariant : Obligations.ResetMeetsTheInvariant :=
  ⟨⟨by decide, nofun, nofun, nofun⟩, rfl, rfl, rfl, rfl, rfl, rfl, rfl⟩

/-! ### The outcome of a command word determines what it does -/

section

variable {w : CmdWord} {b b' : Block} {r : Response}

/-- The converse of `blockOp_cases`: an outcome whose guards hold is the one the word has. -/
theorem blockOp_of_outcome {o : Except Fault (Response × Block)} (h : WordOutcome w b o) : blockOp w b = o := by
  cases h
  case illop h => rcases h with h | h <;> rw [blockOp_eq h] <;> rfl
  all_goals rw [blockOp_eq (by assumption)]
  case csclr | csadd | csrd | rxnew | errrd | errclr => rfl
  case txnew ho => exact txnew_legal b ho
  case illord ho => exact txnew_illegal b ho
  case txpar hs => exact txpar_load b _ hs
  case txparSeq hs => exact txpar_seq b _ hs
  case txbuild hs hc => exact txbuild_full b hs hc
  case ipc hs hc => exact txbuild_ipc b hs hc
  case txbuildSeq hs => exact txbuild_seq b hs
  case txpop hs hp => exact txpop_ready b hs hp
  case txpopSeq hs => exact txpop_seq b hs
  case txIndex hs hp => exact txpop_fault b hs hp
  case rxpush hc => exact rxpush_room b _ hc
  case ovr hc => exact rxpush_ovr b _ hc
  case rxIndex hc => exact rxpush_fault b _ (by simp [hc]) (by simp [hc])
  case short hc => exact rxdec_short b hc
  case cksum hc hs => exact rxdec_cksum b hc hs
  case rxdec hc hs => exact rxdec_valid b hc hs
  case rxp1 hv => exact rxp1_valid b hv
  case rxp1Seq hv => exact rxp1_seq b hv
  case rxp2 hv => exact rxp2_valid b hv
  case rxp2Seq hv => exact rxp2_seq b hv

/-! ### Which words write which element: the columns of the access matrix (spec/10_state.md R29) -/

theorem WordOutcome.keeps_acc (h : WordOutcome w b (.ok (r, b'))) (hw : cmdOp w ∉ [0x1, 0x2, 0x6, 0xA]) :
    b'.acc = b.acc := by
  cases h
  case csclr h | csadd h | txbuild h _ _ | cksum h _ _ | rxdec h _ _ => simp [h] at hw
  all_goals rfl

theorem WordOutcome.keeps_ord (h : WordOutcome w b (.ok (r, b'))) (hw : cmdOp w ∉ [0x4]) : b'.ord = b.ord := by
  cases h
  case txnew h _ => simp [h] at hw
  all_goals rfl

theorem WordOutcome.keeps_par (h : WordOutcome w b (.ok (r, b'))) (hw : cmdOp w ∉ [0x5]) : b'.par = b.par := by
  cases h
  case txpar h _ => simp [h] at hw
  all_goals rfl

theorem WordOutcome.keeps_pcnt (h : WordOutcome w b (.ok (r, b'))) (hw : cmdOp w ∉ [0x4, 0x5]) :
    b'.pcnt = b.pcnt := by
  cases h
  case txnew h _ | txpar h _ => simp [h] at hw
  all_goals rfl

theorem WordOutcome.keeps_txbuf (h : WordOutcome w b (.ok (r, b'))) (hw : cmdOp w ∉ [0x6]) :
    b'.txbuf = b.txbuf := by
  cases h
  case txbuild h _ _ => simp [h] at hw
  all_goals rfl

theorem WordOutcome.keeps_txst (h : WordOutcome w b (.ok (r, b'))) (hw : cmdOp w ∉ [0x4, 0x6, 0x7]) :
    b'.txst = b.txst := by
  cases h
  case txnew h _ | illord h _ | txbuild h _ _ | ipc h _ _ | txpop h _ _ => simp [h] at hw
  all_goals rfl

theorem WordOutcome.keeps_txptr (h : WordOutcome w b (.ok (r, b'))) (hw : cmdOp w ∉ [0x6, 0x7]) :
    b'.txptr = b.txptr := by
  cases h
  case txbuild h _ _ | txpop h _ _ => simp [h] at hw
  all_goals rfl

theorem WordOutcome.keeps_rxbuf (h : WordOutcome w b (.ok (r, b'))) (hw : cmdOp w ∉ [0x9]) :
    b'.rxbuf = b.rxbuf := by
  cases h
  case rxpush h _ => simp [h] at hw
  all_goals rfl

theorem WordOutcome.keeps_rxcnt (h : WordOutcome w b (.ok (r, b'))) (hw : cmdOp w ∉ [0x8, 0x9]) :
    b'.rxcnt = b.rxcnt := by
  cases h
  case rxnew h | rxpush h _ => simp [h] at hw
  all_goals rfl

theorem WordOutcome.keeps_p1_p2 (h : WordOutcome w b (.ok (r, b'))) (hw : cmdOp w ∉ [0xA]) :
    b'.p1 = b.p1 ∧ b'.p2 = b.p2 := by
  cases h
  case rxdec h _ _ => simp [h] at hw
  all_goals exact ⟨rfl, rfl⟩

theorem WordOutcome.keeps_pv (h : WordOutcome w b (.ok (r, b'))) (hw : cmdOp w ∉ [0x8, 0xA]) : b'.pv = b.pv := by
  cases h
  case rxnew h | short h _ | cksum h _ _ | rxdec h _ _ => simp [h] at hw
  all_goals rfl

theorem WordOutcome.keeps_err (h : WordOutcome w b (.ok (r, b')))
    (hw : cmdOp w ∉ [0x0, 0x4, 0x5, 0x6, 0x7, 0x9, 0xA, 0xB, 0xC, 0xE, 0xF]) : b'.err = b.err := by
  cases h
  case illord h _ | txparSeq h _ | ipc h _ _ | txbuildSeq h _ | txpopSeq h _ | ovr h _ | short h _ | cksum h _ _
    | rxp1Seq h _ | rxp2Seq h _ | errclr h => simp [h] at hw
  case illop h => rcases h with h | h <;> simp [h] at hw
  all_goals rfl

end

/-- Settles O31, one column of the matrix after another; what is not the block's is the host's alone. -/
theorem accessMatrixWrites : Obligations.AccessMatrixWrites := by
  intro w s t h
  obtain ⟨r, b, -, ho, rfl⟩ := exec_word_next h
  exact ⟨ho.keeps_acc, ho.keeps_ord, ho.keeps_par, ho.keeps_pcnt, ho.keeps_txbuf, ho.keeps_txst, ho.keeps_txptr,
    ho.keeps_rxbuf, ho.keeps_rxcnt, ho.keeps_p1_p2, ho.keeps_pv, ho.keeps_err, rfl, rfl⟩

/-! ### The assembler and the parser share no element but ACC and ERR (spec/10_state.md R29) -/

/-- Two blocks with the same elements of the parser. -/
structure Block.SameParser (b c : Block) : Prop where
  rxbuf : b.rxbuf = c.rxbuf
  rxcnt : b.rxcnt = c.rxcnt
  p1 : b.p1 = c.p1
  p2 : b.p2 = c.p2
  pv : b.pv = c.pv

/-- Two blocks with the same elements of the assembler. -/
structure Block.SameAssembler (b c : Block) : Prop where
  ord : b.ord = c.ord
  par : b.par = c.par
  pcnt : b.pcnt = c.pcnt
  txbuf : b.txbuf = c.txbuf
  txst : b.txst = c.txst
  txptr : b.txptr = c.txptr

section

variable {w : CmdWord} {b b' c : Block} {r : Response}

/-- The guards and the answers of the parser's operations speak of its own elements. -/
theorem WordOutcome.of_sameParser (h : WordOutcome w b (.ok (r, b')))
    (hw : cmdOp w ∈ [0x8, 0x9, 0xA, 0xB, 0xC]) (hc : b.SameParser c) :
    ∃ c', blockOp w c = .ok (r, c') ∧ c'.SameParser b' := by
  obtain ⟨_, _, _, _, _, _, _, _, _, _, _, _, _⟩ := c
  obtain ⟨rfl, rfl, rfl, rfl, rfl⟩ := hc
  cases h
  case rxnew h => exact ⟨_, blockOp_of_outcome (.rxnew h), rfl, rfl, rfl, rfl, rfl⟩
  case rxpush h hc => exact ⟨_, blockOp_of_outcome (.rxpush h hc), rfl, rfl, rfl, rfl, rfl⟩
  case ovr h hc => exact ⟨_, blockOp_of_outcome (.ovr h hc), rfl, rfl, rfl, rfl, rfl⟩
  case short h hc => exact ⟨_, blockOp_of_outcome (.short h hc), rfl, rfl, rfl, rfl, rfl⟩
  case cksum h hc hs => exact ⟨_, blockOp_of_outcome (.cksum h hc hs), rfl, rfl, rfl, rfl, rfl⟩
  case rxdec h hc hs => exact ⟨_, blockOp_of_outcome (.rxdec h hc hs), rfl, rfl, rfl, rfl, rfl⟩
  case rxp1 h hv => exact ⟨_, blockOp_of_outcome (.rxp1 h hv), rfl, rfl, rfl, rfl, rfl⟩
  case rxp1Seq h hv => exact ⟨_, blockOp_of_outcome (.rxp1Seq h hv), rfl, rfl, rfl, rfl, rfl⟩
  case rxp2 h hv => exact ⟨_, blockOp_of_outcome (.rxp2 h hv), rfl, rfl, rfl, rfl, rfl⟩
  case rxp2Seq h hv => exact ⟨_, blockOp_of_outcome (.rxp2Seq h hv), rfl, rfl, rfl, rfl, rfl⟩
  case illop h => rcases h with h | h <;> simp [h] at hw
  all_goals simp [*] at hw

/-- The guards and the answers of the assembler's operations speak of its own elements. (In the case of TXPOP `by exact`
keeps the guards back until the block they speak of is known.) -/
theorem WordOutcome.of_sameAssembler (h : WordOutcome w b (.ok (r, b')))
    (hw : cmdOp w ∈ [0x4, 0x5, 0x6, 0x7]) (hc : b.SameAssembler c) :
    ∃ c', blockOp w c = .ok (r, c') ∧ c'.SameAssembler b' := by
  obtain ⟨_, _, _, _, _, _, _, _, _, _, _, _, _⟩ := c
  obtain ⟨rfl, rfl, rfl, rfl, rfl, rfl⟩ := hc
  cases h
  case txnew h ho => exact ⟨_, blockOp_of_outcome (.txnew h ho), rfl, rfl, rfl, rfl, rfl, rfl⟩
  case illord h ho => exact ⟨_, blockOp_of_outcome (.illord h ho), rfl, rfl, rfl, rfl, rfl, rfl⟩
  case txpar h hs => exact ⟨_, blockOp_of_outcome (.txpar h hs), rfl, rfl, rfl, rfl, rfl, rfl⟩
  case txparSeq h hs => exact ⟨_, blockOp_of_outcome (.txparSeq h hs), rfl, rfl, rfl, rfl, rfl, rfl⟩
  case txbuild h hs hc => exact ⟨_, blockOp_of_outcome (.txbuild h hs hc), rfl, rfl, rfl, rfl, rfl, rfl⟩
  case ipc h hs hc => exact ⟨_, blockOp_of_outcome (.ipc h hs hc), rfl, rfl, rfl, rfl, rfl, rfl⟩
  case txbuildSeq h hs => exact ⟨_, blockOp_of_outcome (.txbuildSeq h hs), rfl, rfl, rfl, rfl, rfl, rfl⟩
  case txpop h hs hp =>
    exact ⟨_, blockOp_of_outcome (.txpop h (by exact hs) (by exact hp)), rfl, rfl, rfl, rfl, rfl, rfl⟩
  case txpopSeq h hs => exact ⟨_, blockOp_of_outcome (.txpopSeq h hs), rfl, rfl, rfl, rfl, rfl, rfl⟩
  case illop h => rcases h with h | h <;> simp [h] at hw
  all_goals simp [*] at hw

end

/-- Settles O32: a word has the same outcome on two blocks with the same elements of its unit. -/
theorem assemblerAndParserShareNothing : Obligations.AssemblerAndParserShareNothing := by
  constructor
  · intro w s t u hw hrxbuf hrxcnt hp1 hp2 hpv h
    obtain ⟨r, b, -, ho, rfl⟩ := exec_word_next h
    obtain ⟨c, hop, hc⟩ := ho.of_sameParser hw ⟨hrxbuf, hrxcnt, hp1, hp2, hpv⟩
    exact ⟨_, exec_word_of_op hop, rfl, hc.rxbuf, hc.rxcnt, hc.p1, hc.p2, hc.pv⟩
  · intro w s t u hw hord hpar hpcnt htxbuf htxst htxptr h
    obtain ⟨r, b, -, ho, rfl⟩ := exec_word_next h
    obtain ⟨c, hop, hc⟩ := ho.of_sameAssembler hw ⟨hord, hpar, hpcnt, htxbuf, htxst, htxptr⟩
    exact ⟨_, exec_word_of_op hop, rfl, hc.ord, hc.par, hc.pcnt, hc.txbuf, hc.txst, hc.txptr⟩

/-! ### The received bytes (spec/10_state.md R21, R22, R30 (5)) -/

/-- RXBUF holds the first six of the bytes `xs`, and RXCNT is their number. -/
def Block.HoldsReceived (xs : List Byte) (b : Block) : Prop :=
  b.rxcnt.toNat = min xs.length 6 ∧ ∀ i, i < min xs.length 6 → b.rxbuf[i]? = xs[i]?

section

variable {w : CmdWord} {b b' : Block} {r : Response} {xs : List Byte}

/-- A byte pushed where there is room is the next one held. -/
theorem Block.HoldsReceived.push (hb : b.HoldsReceived xs) (x : Byte) (hc : b.rxcnt.toNat < 6) :
    Block.HoldsReceived (xs ++ [x])
      { b with rxbuf := b.rxbuf.setIfInBounds b.rxcnt.toNat x, rxcnt := b.rxcnt + 1 } := by
  obtain ⟨hcnt, hbuf⟩ := hb
  have hlen : b.rxcnt.toNat = xs.length := by omega
  have hnew : (b.rxcnt + 1).toNat = xs.length + 1 := by bv_omega
  refine ⟨hnew.trans (by rw [List.length_append, List.length_singleton]; omega), fun i hi => ?_⟩
  rw [List.length_append, List.length_singleton] at hi
  obtain rfl | hlt : i = xs.length ∨ i < xs.length := by omega
  · simp [hlen, hlen ▸ hc]
  · rw [Vector.getElem?_setIfInBounds_ne (by omega), List.getElem?_append_left hlt]
    exact hbuf i (by omega)

/-- A byte pushed where six are held is dropped. -/
theorem Block.HoldsReceived.drop (hb : b.HoldsReceived xs) (x : Byte) (hc : b.rxcnt = 6) :
    b.HoldsReceived (xs ++ [x]) := by
  obtain ⟨hcnt, hbuf⟩ := hb
  have hlen : 6 ≤ xs.length := by simp [hc] at hcnt; omega
  refine ⟨by rw [List.length_append]; omega, fun i hi => ?_⟩
  rw [List.getElem?_append_left (by omega)]
  exact hbuf i (by omega)

/-- Every word but RXNEW goes on holding the bytes pushed, with the one it pushes. -/
theorem blockOp_keeps_holdsReceived (hw : cmdOp w ≠ 0x8) (hb : b.HoldsReceived xs)
    (hop : blockOp w b = .ok (r, b')) : b'.HoldsReceived (xs ++ operandsOf 0x9 [w]) := by
  have ho : WordOutcome w b (.ok (r, b')) := hop ▸ blockOp_cases w b
  by_cases h9 : cmdOp w = 0x9
  · have hpushed : operandsOf 0x9 [w] = [cmdData w] := by simp [operandsOf, h9]
    rw [hpushed]
    by_cases hc : b.rxcnt.toNat < 6
    · cases hop.symm.trans (blockOp_of_outcome (.rxpush h9 hc))
      exact hb.push _ hc
    · have h6 : b.rxcnt = 6 := by
        obtain ⟨hcnt, -⟩ := hb
        bv_omega
      cases hop.symm.trans (blockOp_of_outcome (.ovr h9 h6))
      exact hb.drop _ h6
  · have hpushed : operandsOf 0x9 [w] = [] := by simpa [operandsOf] using h9
    have hcnt : b'.rxcnt = b.rxcnt := ho.keeps_rxcnt (by simpa using ⟨hw, h9⟩)
    have hbuf : b'.rxbuf = b.rxbuf := ho.keeps_rxbuf (by simpa using h9)
    rw [hpushed, List.append_nil, Block.HoldsReceived, hcnt, hbuf]
    exact hb

end

/-- Settles O21: RXNEW leaves no byte held, and the words after it hold what they push. -/
theorem receivedBytesAreHeldInOrder : Obligations.ReceivedBytesAreHeldInOrder := by
  intro s ws d hs hws
  have hop : cmdOp (cmdWord 0x8 d) = 0x8 := cmdOp_cmdWord _ _
  have hnew := blockOp_of_outcome (.rxnew (b := s.block) hop)
  obtain ⟨rs, b, hrun, -⟩ := runOps_words_answers ws ((WordOutcome.rxnew hop).keeps_inv hs)
  obtain ⟨t, ht, rfl, -⟩ := runWords_of_run (ws := cmdWord 0x8 d :: ws) (s := s)
    (by rw [List.map_cons, runOps_cons_ok _ hnew, hrun])
  obtain ⟨hcnt, hbuf⟩ := runOps_history (fun hist => Block.HoldsReceived (operandsOf 0x9 hist)) (cmdOp · ≠ 0x8)
    (fun hist w b r b' hw hb hop => operandsOf_append _ hist [w] ▸ blockOp_keeps_holdsReceived hw hb hop)
    ws (fun w hw => by simpa using hws w hw) [] _ rs _ ⟨rfl, nofun⟩ hrun
  exact ⟨_, t, ht, hcnt, hbuf⟩

/-! ### What is unspecified is not observed (spec/10_state.md R31) -/

/-- Vectors that agree on all their cells are equal. -/
theorem vector_eq_of_getElem?_eq {α : Type} {k n : Nat} {u v : Vector α k} (h : ∀ i, i < n → u[i]? = v[i]?)
    (hk : k ≤ n) : u = v :=
  Vector.ext fun i hi => by simpa [hi] using h i (by omega)

/-- Vectors that agree on their first cells agree on one more where the same value is written to it. -/
theorem setIfInBounds_agree {α : Type} {k n : Nat} {u v : Vector α k} (x : α) (h : ∀ i, i < n → u[i]? = v[i]?) :
    ∀ i, i < n + 1 → (u.setIfInBounds n x)[i]? = (v.setIfInBounds n x)[i]? := by
  intro i hi
  obtain rfl | hlt : i = n ∨ i < n := by omega
  · simp [Vector.getElem?_setIfInBounds]
  · rw [Vector.getElem?_setIfInBounds_ne (by omega), Vector.getElem?_setIfInBounds_ne (by omega)]
    exact h i hlt

/-- A pushed parameter is live, and with a full PAR nothing is stored. -/
theorem pushedPar_agree {b c : Block} (x : Byte) (hpcnt : b.pcnt = c.pcnt)
    (hpar : ∀ i, i < b.pcnt.toNat → b.par[i]? = c.par[i]?) :
    ∀ i, i < (saturatedSucc b.pcnt).toNat → (b.pushedPar x)[i]? = (c.pushedPar x)[i]? := by
  intro i hi
  rw [saturatedSucc_toNat] at hi
  unfold Block.pushedPar
  rw [← hpcnt]
  split
  · exact setIfInBounds_agree x hpar i (by omega)
  · rw [vector_eq_of_getElem?_eq hpar (by omega)]

/-- Every word has the same response on blocks that agree on the live elements, and leaves blocks that agree on them:
a data cell becomes live only where an operation writes it. -/
theorem WordOutcome.of_sameLive {w : CmdWord} {b b' c : Block} {r : Response} (h : WordOutcome w b (.ok (r, b')))
    (hl : b.SameLive c) : ∃ c', blockOp w c = .ok (r, c') ∧ b'.SameLive c' := by
  have ⟨hacc, hpcnt, htxst, htxptr, hrxcnt, hpv, herr, hord, hpar, htxbuf, hrxbuf, hp1, hp2⟩ := hl
  obtain ⟨_, _, _, _, _, _, _, _, _, _, _, _, _⟩ := c
  subst hacc hpcnt htxst htxptr hrxcnt hpv herr
  cases h
  case csclr h => exact ⟨_, blockOp_of_outcome (.csclr h), { hl with acc := rfl }⟩
  case csadd h => exact ⟨_, blockOp_of_outcome (.csadd h), { hl with acc := rfl }⟩
  case csrd h => exact ⟨_, blockOp_of_outcome (.csrd h), hl⟩
  case txnew h ho =>
    exact ⟨_, blockOp_of_outcome (.txnew h ho),
      { hl with pcnt := rfl, txst := rfl, ord := fun _ => rfl, par := fun _ _ => nofun, txbuf := nofun }⟩
  case illord h ho =>
    exact ⟨_, blockOp_of_outcome (.illord h ho),
      { hl with txst := rfl, err := rfl, ord := nofun, par := nofun, txbuf := nofun }⟩
  case txpar h hs =>
    exact ⟨_, blockOp_of_outcome (.txpar h hs),
      { hl with pcnt := rfl, par := fun _ => pushedPar_agree _ rfl (hpar hs) }⟩
  case txparSeq h hs => exact ⟨_, blockOp_of_outcome (.txparSeq h hs), { hl with err := rfl }⟩
  case txbuild h hs hc =>
    cases hord hs
    cases vector_eq_of_getElem?_eq (hpar hs) (by simp [hc])
    exact ⟨_, blockOp_of_outcome (.txbuild h hs hc),
      { hl with acc := rfl, txptr := rfl, txst := rfl, ord := nofun, par := nofun, txbuf := fun _ => rfl }⟩
  case ipc h hs hc =>
    exact ⟨_, blockOp_of_outcome (.ipc h hs hc),
      { hl with txst := rfl, err := rfl, ord := nofun, par := nofun, txbuf := nofun }⟩
  case txbuildSeq h hs => exact ⟨_, blockOp_of_outcome (.txbuildSeq h hs), { hl with err := rfl }⟩
  case txpop h hs hp =>
    cases htxbuf hs
    refine ⟨_, blockOp_of_outcome (.txpop h (by exact hs) (by exact hp)),
      { hl with txptr := rfl, txst := rfl, ord := fun hload => ?_, par := fun hload => ?_, txbuf := fun _ => rfl }⟩
    · split at hload <;> cases hload
    · split at hload <;> cases hload
  case txpopSeq h hs => exact ⟨_, blockOp_of_outcome (.txpopSeq h hs), { hl with err := rfl }⟩
  case rxnew h =>
    exact ⟨_, blockOp_of_outcome (.rxnew h),
      { hl with rxcnt := rfl, pv := rfl, rxbuf := fun _ => nofun, p1 := nofun, p2 := nofun }⟩
  case rxpush h hc =>
    exact ⟨_, blockOp_of_outcome (.rxpush h hc),
      { hl with rxcnt := rfl, rxbuf := fun i hi => setIfInBounds_agree _ hrxbuf i (by bv_omega) }⟩
  case ovr h hc => exact ⟨_, blockOp_of_outcome (.ovr h hc), { hl with err := rfl }⟩
  case short h hc =>
    exact ⟨_, blockOp_of_outcome (.short h hc), { hl with pv := rfl, err := rfl, p1 := nofun, p2 := nofun }⟩
  case cksum h hc hs =>
    cases vector_eq_of_getElem?_eq hrxbuf (by omega)
    exact ⟨_, blockOp_of_outcome (.cksum h hc hs),
      { hl with acc := rfl, pv := rfl, err := rfl, p1 := nofun, p2 := nofun }⟩
  case rxdec h hc hs =>
    cases vector_eq_of_getElem?_eq hrxbuf (by omega)
    exact ⟨_, blockOp_of_outcome (.rxdec h hc hs),
      { hl with acc := rfl, pv := rfl, p1 := fun _ => rfl, p2 := fun _ => rfl }⟩
  case rxp1 h hv =>
    cases hp1 hv
    exact ⟨_, blockOp_of_outcome (.rxp1 h hv), hl⟩
  case rxp1Seq h hv => exact ⟨_, blockOp_of_outcome (.rxp1Seq h hv), { hl with err := rfl }⟩
  case rxp2 h hv =>
    cases hp2 hv
    exact ⟨_, blockOp_of_outcome (.rxp2 h hv), hl⟩
  case rxp2Seq h hv => exact ⟨_, blockOp_of_outcome (.rxp2Seq h hv), { hl with err := rfl }⟩
  case errrd h => exact ⟨_, blockOp_of_outcome (.errrd h), hl⟩
  case errclr h => exact ⟨_, blockOp_of_outcome (.errclr h), { hl with err := rfl }⟩
  case illop h => exact ⟨_, blockOp_of_outcome (.illop h), { hl with err := rfl }⟩

/-- A word that stops the machine on one of two such blocks stops it on the other. -/
theorem WordOutcome.fault_of_sameLive {w : CmdWord} {b c : Block} {f : Fault} (h : WordOutcome w b (.error f))
    (hl : b.SameLive c) : blockOp w c = .error f := by
  cases h with
  | txIndex h hs hp => exact blockOp_of_outcome (.txIndex h (hl.txst ▸ hs) (hl.txptr ▸ hp))
  | rxIndex h hc => exact blockOp_of_outcome (.rxIndex h (hl.rxcnt ▸ hc))

/-- The same answer, and states that agree on the live elements. -/
def AnswerAlike {α : Type} (x y : α × State) : Prop := x.1 = y.1 ∧ x.2.block.SameLive y.2.block

/-- What every word does, at the level of the machine. -/
theorem issueWord_sameLive (w : CmdWord) {s t : State} (hl : s.block.SameLive t.block) :
    Option.Rel AnswerAlike (issueWord w s) (issueWord w t) := by
  have ho := blockOp_cases w s.block
  cases hop : blockOp w s.block with
  | error f =>
    rw [issueWord_of_fault hop, issueWord_of_fault ((hop ▸ ho).fault_of_sameLive hl)]
    exact .none
  | ok a =>
    obtain ⟨c, hopc, hlc⟩ := (hop ▸ ho : WordOutcome w s.block (.ok (a.1, a.2))).of_sameLive hl
    rw [issueWord_of_op hop, issueWord_of_op hopc]
    exact .some ⟨rfl, hlc⟩

/-- By induction on the words: after each the two states still agree on the live elements. -/
theorem runWords_sameLive (ws : List CmdWord) {s t : State} (hl : s.block.SameLive t.block) :
    Option.Rel AnswerAlike (runWords ws s) (runWords ws t) := by
  induction ws generalizing s t with
  | nil => exact .some ⟨rfl, hl⟩
  | cons w ws ih =>
    have hw := issueWord_sameLive w hl
    simp only [runWords]
    generalize issueWord w s = x, issueWord w t = y at hw ⊢
    cases hw with
    | none => exact .none
    | @some x y hxy =>
      obtain ⟨r, u⟩ := x
      obtain ⟨q, v⟩ := y
      obtain ⟨rfl, huv⟩ : r = q ∧ u.block.SameLive v.block := hxy
      have hrun := ih huv
      dsimp only
      generalize runWords ws u = x, runWords ws v = y at hrun ⊢
      cases hrun with
      | none => exact .none
      | some hxy => exact .some ⟨congrArg (r :: ·) hxy.1, hxy.2⟩

/-- The control elements of a block after reset (spec/10_state.md R33). -/
structure Block.ControlReset (b : Block) : Prop where
  acc : b.acc = 0x00
  pcnt : b.pcnt = 0
  txst : b.txst = .idle
  txptr : b.txptr = 0
  rxcnt : b.rxcnt = 0
  pv : b.pv = false
  err : b.err = 0x00

theorem State.reset_controlReset : State.reset.block.ControlReset := ⟨rfl, rfl, rfl, rfl, rfl, rfl, rfl⟩

theorem State.resetBlock_controlReset (s : State) : s.resetBlock.ControlReset := ⟨rfl, rfl, rfl, rfl, rfl, rfl, rfl⟩

/-- After reset no data cell is live: nothing is being assembled, no byte is held, no payload is valid. -/
theorem Block.ControlReset.sameLive {b c : Block} (hb : b.ControlReset) (hc : c.ControlReset) : b.SameLive c where
  acc := hb.acc.trans hc.acc.symm
  pcnt := hb.pcnt.trans hc.pcnt.symm
  txst := hb.txst.trans hc.txst.symm
  txptr := hb.txptr.trans hc.txptr.symm
  rxcnt := hb.rxcnt.trans hc.rxcnt.symm
  pv := hb.pv.trans hc.pv.symm
  err := hb.err.trans hc.err.symm
  ord := by simp [hb.txst]
  par := by simp [hb.txst]
  txbuf := by simp [hb.txst]
  rxbuf := by simp [hb.rxcnt]
  p1 := by simp [hb.pv]
  p2 := by simp [hb.pv]

/-- Settles O57: after reset no data cell is live, and agreement on what is live is a relation that every command word
answers alike on and keeps. -/
theorem unspecifiedRegistersAreUnobservable : Obligations.UnspecifiedRegistersAreUnobservable := by
  refine ⟨fun s t => ⟨s.resetBlock_controlReset.sameLive t.resetBlock_controlReset,
    State.reset_controlReset.sameLive t.resetBlock_controlReset⟩, fun ws s t hl => ?_⟩
  have hrun := runWords_sameLive ws hl
  generalize runWords ws s = x, runWords ws t = y at hrun ⊢
  cases hrun with
  | none => rfl
  | @some x y hxy => exact ⟨y.2, congrArg some (Prod.ext hxy.1.symm rfl), hxy.2⟩

end Sys2Proof.Machine

/-!
PROOFS. The memory family (spec/20_memory.md): that RXDEC repeated is RXDEC once, and where the machine stops because an
index falls outside TXBUF or RXBUF.
-/

namespace Sys2Proof.Machine

open Sys2Proof

/-! ### RXDEC twice in a row (spec/20_memory.md R41) -/

@[simp] theorem setFlag_setFlag (e : Byte) (c : Cause) : setFlag (setFlag e c) c = setFlag e c := by
  simp [setFlag, BitVec.or_assoc]

/-- RXDEC writes none of the elements it tests, so the second run takes the branch of the first. -/
theorem rxdec_idempotent {b b' : Block} {r : Response} (h : b.rxdec = .ok (r, b')) : b'.rxdec = .ok (r, b') := by
  by_cases hc : b.rxcnt.toNat < 6
  · cases (rxdec_short b hc).symm.trans h
    simpa using rxdec_short { b with pv := false, err := setFlag b.err .short } hc
  · by_cases hs : responseSum b.rxbuf = b.rxbuf[5]
    · cases (rxdec_valid b hc hs).symm.trans h
      exact rxdec_valid _ hc hs
    · cases (rxdec_cksum b hc hs).symm.trans h
      simpa using
        rxdec_cksum { b with acc := responseSum b.rxbuf, pv := false, err := setFlag b.err .cksum } hc hs

/-- Settles O24: the block and the response of RXDEC are those of RXDEC again, and the host's part is kept. -/
theorem rxdecIsIdempotent : Obligations.RxdecIsIdempotent := by
  intro s t h
  obtain ⟨r, b, hop, -, rfl⟩ := exec_word_next (w := cmdWord 0xA 0) h
  exact issue_of_run (runOps_singleton (rxdec_idempotent hop))

/-! ### An index outside a buffer (spec/20_memory.md R34) -/

/-- Issuing one operation stops the machine exactly where the operation does. -/
theorem issue_singleton_fault_iff {op : BlockOp} {s : State} {f : Fault} :
    s.issue [op] = .fault f ↔ op s.block = .error f := by
  cases h : op s.block <;> simp [State.issue, runOps, h]

/-- A word stops the machine only where it would index TXBUF or RXBUF outside its cells. -/
theorem WordOutcome.index_of_fault {w : CmdWord} {b : Block} {f : Fault} (h : WordOutcome w b (.error f)) :
    b.txst = .ready ∧ 12 ≤ b.txptr.toNat ∨ b.rxcnt = 7 := by
  cases h with
  | txIndex _ hs hp => exact .inl ⟨hs, hp⟩
  | rxIndex _ hc => exact .inr hc

/-- Settles O10: the two operations that index a buffer stop outside it, and no outcome of a word but theirs is a
fault. -/
theorem indexOutsideABufferStops : Obligations.IndexOutsideABufferStops := by
  refine ⟨fun s hs hp => ?_, fun s x hc => ?_, fun w s f h => ?_⟩
  · exact issue_singleton_fault_iff.mpr (txpop_fault s.block hs hp)
  · exact issue_singleton_fault_iff.mpr (rxpush_fault s.block x (by simp [hc]) (by simp [hc]))
  · rw [exec_decodeCmd, issue_singleton_fault_iff] at h
    exact (h ▸ blockOp_cases w s.block).index_of_fault

end Sys2Proof.Machine

/-!
PROOFS. The encoding family (spec/30_encoding.md): that an instruction is read back from what it is presented as, which
bits of a command word and of a request frame matter, and the sample words and texts.
-/

namespace Sys2Proof.Machine

open Sys2Proof

/-! ### A request frame as one number (spec/30_encoding.md R52, R60) -/

/-- A 96-bit number is determined by its twelve bytes. -/
theorem frame12_ext {f g : BitVec 96} (h : ∀ i < 12, frame12Byte f i = frame12Byte g i) : f = g := by
  apply BitVec.eq_of_getLsbD_eq
  intro j hj
  have hbit := congrArg (fun b : Byte => b.getLsbD (j % 8)) (h (11 - j / 8) (by omega))
  have hpos : 8 * (11 - (11 - j / 8)) + j % 8 = j := by omega
  simpa [frame12Byte, BitVec.getLsbD_extractLsb', hpos, Nat.mod_lt] using hbit

section

variable (o : Byte) (p : Vector Byte 8)

@[simp] theorem frameParams_packFrame12_requestFrame : frameParams (packFrame12 (requestFrame o p)) = p := by
  simp [frameParams, frame12Byte_packFrame12, requestFrame, vector8_eta]

/-- The header and the checksum of an assembled frame pass the decoder's test, so only the order byte decides. -/
theorem decodeReqFrame_requestFrame :
    decodeReqFrame (packFrame12 (requestFrame o p)) =
      if o = OrderCode.status.byte then some (.reqStatus p)
      else if o = OrderCode.loadConf.byte then some (.reqLoadconf p)
      else if o = OrderCode.control.byte then some (.reqControl p)
      else none := by
  have h0 : frame12Byte (packFrame12 (requestFrame o p)) 0 = hdr0 := frame12Byte_packFrame12 _ 0 (by decide)
  have h1 : frame12Byte (packFrame12 (requestFrame o p)) 1 = hdr1 := frame12Byte_packFrame12 _ 1 (by decide)
  have h2 : frame12Byte (packFrame12 (requestFrame o p)) 2 = o := frame12Byte_packFrame12 _ 2 (by decide)
  have hsum : frame12Byte (packFrame12 (requestFrame o p)) 11 = requestSum o p :=
    frame12Byte_packFrame12 _ 11 (by decide)
  simp [decodeReqFrame, h0, h1, h2, hsum]

end

/-- A number with the header and the checksum of a request is the frame of its own order byte and parameters. -/
theorem eq_packFrame12_requestFrame {f : BitVec 96} (h0 : frame12Byte f 0 = hdr0) (h1 : frame12Byte f 1 = hdr1)
    (hsum : frame12Byte f 11 = requestSum (frame12Byte f 2) (frameParams f)) :
    f = packFrame12 (requestFrame (frame12Byte f 2) (frameParams f)) := by
  apply frame12_ext
  intro i hi
  rw [frame12Byte_packFrame12 _ i hi]
  interval_cases i <;> simp [requestFrame, frameParams, h0, h1, hsum]

theorem eq_requestFrame_of_decodeReqFrame {f : BitVec 96} {i : Instr} (h : decodeReqFrame f = some i) :
    ∃ o p, f = packFrame12 (requestFrame o p) := by
  simp only [decodeReqFrame] at h
  split at h
  case isTrue hf =>
    obtain ⟨h0, h1, hsum⟩ := hf
    exact ⟨_, _, eq_packFrame12_requestFrame h0 h1 hsum⟩
  case isFalse => cases h

theorem decodeRspFrame_packFrame6 (r : Vector Byte 6) : decodeRspFrame (packFrame6 r) = .rsp r := by
  simp [decodeRspFrame, frame6Byte_packFrame6, vector6_eta]

/-- Settles O48: a number that decodes at all is an assembled frame, and of those the order byte decides. -/
theorem requestFramesAreExactlyTheAssembled : Obligations.RequestFramesAreExactlyTheAssembled := by
  intro f i
  constructor
  · intro h
    obtain ⟨o, p, rfl⟩ := eq_requestFrame_of_decodeReqFrame h
    rw [decodeReqFrame_requestFrame] at h
    refine ⟨p, ?_⟩
    split_ifs at h with h0 h1 h2 <;> subst o <;> cases h
    · exact .inl ⟨rfl, rfl⟩
    · exact .inr (.inl ⟨rfl, rfl⟩)
    · exact .inr (.inr ⟨rfl, rfl⟩)
  · rintro ⟨p, ⟨rfl, rfl⟩ | ⟨rfl, rfl⟩ | ⟨rfl, rfl⟩⟩ <;> exact decodeReqFrame_requestFrame _ p

/-! ### Decoding what was encoded (spec/30_encoding.md R48 to R62) -/

/-- An operation is presented as its command word. -/
theorem encode_of_operationWord {i : Instr} {w : CmdWord} (h : operationWord i = some w) : encode i = .cmd w := by
  cases i <;> cases h <;> rfl

theorem decode_encode_of_operation {i : Instr} {w : CmdWord} (h : operationWord i = some w) :
    decode (encode i) = .instr i := by
  rw [encode_of_operationWord h, decode, decodeCmd_operationWord h]

theorem decode_reqFrame_of_some {f : BitVec 96} {i : Instr} (h : decodeReqFrame f = some i) :
    decode (.reqFrame f) = .instr i := by
  simp [decode, h]

theorem decode_encode_req (o : Int) (ps : Vector Int 8) : decode (encode (.req o ps)) = .instr (.req o ps) := by
  rw [encode, vector8_toList]
  exact congrArg (fun v => Decoded.instr (.req o v)) (vector8_eta ps)

/-- Settles O46, by the form an instruction is presented in: a command word, a request frame, a response frame, or a
program line, which the decoder evaluates by its mnemonic. -/
theorem decodeOfEncode : Obligations.DecodeOfEncode := by
  intro i
  cases i with
  | csclr | csadd | csrd | txnew | txpar | txbuild | txpop | rxnew | rxpush | rxdec | rxp1 | rxp2 | errrd | errclr
  | reserved0 | reservedF => exact decode_encode_of_operation rfl
  | reqStatus p | reqLoadconf p | reqControl p => exact decode_reqFrame_of_some (decodeReqFrame_requestFrame _ p)
  | rsp r => exact congrArg Decoded.instr (decodeRspFrame_packFrame6 r)
  | req o ps => exact decode_encode_req o ps
  | qstatus | loadconfC | loadconfN | ctrlForward | ctrlBack | ctrlLeft | ctrlRight | ctrlCatch => rfl

theorem encode_injective {i j : Instr} (h : encode i = encode j) : i = j :=
  Decoded.instr.inj ((decodeOfEncode i).symm.trans (h ▸ decodeOfEncode j))

/-! ### Which bits of a command word matter (spec/30_encoding.md R48 to R51) -/

/-- Clearing DATA leaves the operation code. -/
theorem cmdWord_and_opMask (op : BitVec 4) (d : Byte) : cmdWord op d &&& 0xF00 = cmdWord op 0 := by
  have hmask : (0xF00 : CmdWord) = BitVec.allOnes 4 ++ 0#8 := by decide
  rw [hmask, cmdWord, cmdWord, BitVec.and_append, BitVec.and_allOnes, BitVec.and_zero]
  rfl

/-- The operation a code selects is presented with its DATA where the code takes an operand, else with DATA 0x00. -/
theorem encode_instrOf (op : BitVec 4) (d : Byte) :
    encode (instrOf op d) = .cmd (cmdWord op (if op ∈ [0x2, 0x4, 0x5, 0x9] then d else 0)) := by
  rcases opCode_cases op with (rfl | rfl | rfl | rfl | rfl | rfl | rfl | rfl) |
    (rfl | rfl | rfl | rfl | rfl | rfl | rfl | rfl) <;> rfl

theorem encode_decodeCmd (w : CmdWord) :
    encode (decodeCmd w) = .cmd (if cmdOp w ∈ [0x2, 0x4, 0x5, 0x9] then w else w &&& 0xF00) := by
  have hw := cmdWord_cmdOp_cmdData w
  have hclear : w &&& 0xF00 = cmdWord (cmdOp w) 0 := by
    conv_lhs => rw [← hw]
    exact cmdWord_and_opMask _ _
  rw [decodeCmd, encode_instrOf, hclear, apply_ite (cmdWord (cmdOp w)), hw]

/-- Settles O47: where DATA is ignored, two words with the same code are presented alike, and what is presented alike is
one instruction. -/
theorem operationIsSelectedByItsCode : Obligations.OperationIsSelectedByItsCode := by
  refine ⟨encode_decodeCmd, fun w w' hop hno => encode_injective ?_⟩
  rw [decodeCmd, decodeCmd, encode_instrOf, encode_instrOf, ← hop, if_neg hno, if_neg hno]

/-! ### Samples (spec/30_encoding.md R48 to R62, spec/95_test_vectors.md 2.2 to 2.8) -/

/-- Settles O49: every sample is closed, and the decoder evaluates it. -/
theorem sampleWordsDecode : Obligations.SampleWordsDecode := by
  unfold Obligations.SampleWordsDecode
  decide

/-- Settles O50: every sample is closed, and the assembler evaluates it. -/
theorem sampleProgramTextsAssemble : Obligations.SampleProgramTextsAssemble := by
  unfold Obligations.SampleProgramTextsAssemble
  decide

end Sys2Proof.Machine

/-!
PROOFS. The checksum family (spec/40_checksum.md): the laws of the checksum, the three operations of the generator, and
that a stream of CSADD computes the checksum whatever harmless words are interleaved.
-/

namespace Sys2Proof.Machine

open Sys2Proof

/-! ### The laws of the checksum (spec/40_checksum.md R65, R67) -/

/-- The sum over the natural numbers, reduced once, is the 8-bit addition (spec/40_checksum.md R65). -/
theorem ofNat_toNat_add_mod (a b : Byte) : BitVec.ofNat 8 ((a.toNat + b.toNat) % 256) = a + b := by
  apply BitVec.eq_of_toNat_eq
  simp

theorem checksum_singleton (b : Byte) : checksum [b] = b := by simp [checksum_cons]

theorem checksum_perm {s t : List Byte} (h : s.Perm t) : checksum s = checksum t := by
  rw [checksum, checksum, (h.map BitVec.toNat).sum_eq]

theorem checksum_append_toNat (s t : List Byte) :
    (checksum (s ++ t)).toNat = ((checksum s).toNat + (checksum t).toNat) % 256 := by
  rw [checksum_append, BitVec.toNat_add]

theorem checksum_append_zero (s : List Byte) : checksum (s ++ [0x00]) = checksum s := by
  simp [checksum_append, checksum_singleton]

theorem checksum_append_checksum_toNat (s : List Byte) :
    (checksum (s ++ [checksum s])).toNat = 2 * (checksum s).toNat % 256 := by
  rw [checksum_append_toNat, checksum_singleton, Nat.two_mul]

theorem checksum_replicate (n : Nat) (b : Byte) :
    checksum (List.replicate n b) = BitVec.ofNat 8 (n * b.toNat % 256) := by
  rw [checksum, List.map_replicate, List.sum_replicate, smul_eq_mul]

/-- Settles O4: each law is the law of the sum of the natural numbers, or of 8-bit addition. -/
theorem checksumLaws : Obligations.ChecksumLaws := by
  refine ⟨fun s t => checksum_perm, checksum_append_toNat, checksum_singleton, checksum_append_zero,
    checksum_append_checksum_toNat, fun b => ?_, ?_⟩
  · rw [checksum_replicate, Nat.mul_mod_right]
    rfl
  · rw [checksum_replicate]
    rfl

/-! ### The three operations (spec/40_checksum.md R68 to R70) -/

/-- Settles O1: the operation code selects CSCLR, which answers from every block. -/
theorem csclrClearsTheAccumulator : Obligations.CsclrClearsTheAccumulator :=
  ⟨decodeCmd_cmdWord 0x1, fun s => issue_of_run (runOps_singleton (csclr_ok s.block))⟩

/-- Settles O2: the accumulator adds in 8 bits, which is the sum reduced modulo 256. -/
theorem csaddAddsModulo256 : Obligations.CsaddAddsModulo256 := by
  refine ⟨decodeCmd_cmdWord 0x2, fun s x => ?_⟩
  rw [ofNat_toNat_add_mod]
  exact issue_of_run (runOps_singleton (csadd_ok s.block x))

theorem exec_csrd (s : State) : exec .csrd s = .next (s.answered [okResponse s.block.acc] s.block) :=
  issue_of_run (runOps_singleton (csrd_ok s.block))

theorem responseSum_eq_checksum_take (v : Vector Byte 6) : responseSum v = checksum (v.toList.take 5) := by
  rw [vector6_toList]
  rfl

section

variable {b b' : Block} {r : Response}

/-- A TXBUILD that succeeds built the frame, and the accumulator holds its checksum byte. -/
theorem txbuild_acc (h : b.txbuild = .ok (r, b')) (hr : r.stat = 0) : b'.acc = b'.txbuf[11] := by
  by_cases hs : b.txst = .load
  · by_cases hc : b.pcnt = 8
    · cases (txbuild_full b hs hc).symm.trans h
      rfl
    · cases (txbuild_ipc b hs hc).symm.trans h
      cases hr
  · cases (txbuild_seq b hs).symm.trans h
    cases hr

/-- An RXDEC that finds six bytes leaves the sum it computed, whether or not it matches. -/
theorem rxdec_acc (h : b.rxdec = .ok (r, b')) (hc : 6 ≤ b.rxcnt.toNat) : b'.acc = responseSum b.rxbuf := by
  by_cases hs : responseSum b.rxbuf = b.rxbuf[5]
  · cases (rxdec_valid b (Nat.not_lt.mpr hc) hs).symm.trans h
    rfl
  · cases (rxdec_cksum b (Nat.not_lt.mpr hc) hs).symm.trans h
    rfl

end

/-- Settles O3: CSRD answers ACC, and what ACC holds is what reset, TXBUILD or RXDEC left there. -/
theorem csrdReadsTheAccumulator : Obligations.CsrdReadsTheAccumulator := by
  refine ⟨decodeCmd_cmdWord 0x3, exec_csrd, exec_csrd _, fun s t h hstat => ?_, fun s t hcnt h => ?_⟩
  · obtain ⟨r, b, hop, -, rfl⟩ := exec_word_next (w := cmdWord 0x6 0) h
    have hacc : b.acc = b.txbuf[11] := txbuild_acc hop hstat
    rw [exec_csrd, State.answered_block, hacc]
    rfl
  · obtain ⟨r, b, hop, -, rfl⟩ := exec_word_next (w := cmdWord 0xA 0) h
    have hacc : b.acc = responseSum s.block.rxbuf := rxdec_acc hop hcnt
    rw [exec_csrd, State.answered_block, hacc, responseSum_eq_checksum_take]
    rfl

/-! ### A stream of CSADD (spec/40_checksum.md R71) -/

/-- Of the words that are none of CSCLR, TXBUILD and RXDEC only CSADD moves ACC, and by the byte it adds. -/
theorem WordOutcome.acc_add_operand {w : CmdWord} {b b' : Block} {r : Response} (h : WordOutcome w b (.ok (r, b')))
    (hw : cmdOp w ∉ [0x1, 0x6, 0xA]) : b'.acc = b.acc + checksum (operandsOf 0x2 [w]) := by
  by_cases h2 : cmdOp w = 0x2
  · have hsum : checksum (operandsOf 0x2 [w]) = cmdData w := by simp [operandsOf, h2, checksum_singleton]
    cases (blockOp_of_outcome h).symm.trans (blockOp_of_outcome (.csadd h2))
    rw [hsum]
  · have hnone : operandsOf 0x2 [w] = [] := by simpa [operandsOf] using h2
    have hkeep : b'.acc = b.acc := h.keeps_acc (by simp_all)
    rw [hnone, hkeep]
    simp

/-- Such a sequence completes under the invariant, and ACC has gained the checksum of the bytes added. -/
theorem runWords_acc {s : State} {ws : List CmdWord} (hs : s.Inv) (hws : Avoids [0x1, 0x6, 0xA] ws) :
    ∃ rs t, runWords ws s = some (rs, t) ∧ t.block.acc = s.block.acc + checksum (operandsOf 0x2 ws) := by
  obtain ⟨rs, b, hrun, -⟩ := runOps_words_answers ws hs
  obtain ⟨t, ht, rfl, -⟩ := runWords_of_run hrun
  refine ⟨rs, t, ht, runOps_history (fun hist b => b.acc = s.block.acc + checksum (operandsOf 0x2 hist))
    (cmdOp · ∉ [0x1, 0x6, 0xA]) (fun hist w b r b' hw hb hop => ?_) ws hws [] _ rs _ (BitVec.add_zero _).symm hrun⟩
  rw [operandsOf_append, checksum_append, ← BitVec.add_assoc, ← hb]
  exact (hop ▸ blockOp_cases w b : WordOutcome w b (.ok (r, b'))).acc_add_operand hw

/-- Settles O5: ACC gains the checksum of the bytes added, from 0 where CSCLR came first, and CSRD answers it. -/
theorem streamComputesTheChecksum : Obligations.StreamComputesTheChecksum := by
  intro s ws hs hws
  constructor
  · obtain ⟨rs, t, hrun, hacc⟩ := runWords_acc hs hws
    exact ⟨rs, t, hrun, hacc.trans (ofNat_toNat_add_mod _ _).symm⟩
  · intro d d'
    have hclr := blockOp_of_outcome (.csclr (b := s.block) (cmdOp_cmdWord 0x1 d))
    obtain ⟨rs, t, hrun, hacc⟩ :=
      runWords_acc (s := s.answered [okResponse 0x00] { s.block with acc := 0x00 }) hs hws
    have hrd := blockOp_of_outcome (.csrd (b := t.block) (cmdOp_cmdWord 0x3 d'))
    have hall := runWords_append (runWords_cons.mpr ⟨_, _, rs, issueWord_of_op hclr, hrun, rfl⟩) (runWords_one hrd)
    refine ⟨_, _, hall, ?_⟩
    have hsum : t.block.acc = checksum (operandsOf 0x2 ws) := hacc.trans (BitVec.zero_add _)
    rw [List.getLast?_concat, hsum]
    rfl

end Sys2Proof.Machine

/-!
PROOFS. The assembler family (spec/41_assembler.md): the four operations and the transition table, that a frame is
delivered only after it was built, that the parameters are collected in order, and that TXNEW, TXPARs, TXBUILD and
TXPOPs compute encodeRequest.
-/

namespace Sys2Proof.Machine

open Sys2Proof

/-! ### The four operations (spec/41_assembler.md R75 to R78) -/

theorem isOrderCode_eq_false_iff (b : Byte) : isOrderCode b = false ↔ ¬ (b = 0xC0 ∨ b = 0xC1 ∨ b = 0xC2) := by
  rw [← isOrderCode_iff, Bool.not_eq_true]

/-- Settles O6: TXNEW tests its operand alone, and answers from every block. -/
theorem txnewStartsARequestOrIsIllegal : Obligations.TxnewStartsARequestOrIsIllegal := by
  refine ⟨decodeCmd_cmdWord 0x4, fun s o ho => ?_, fun s o h0 h1 h2 => ?_⟩
  · exact issue_of_run (runOps_singleton (txnew_legal s.block ((isOrderCode_iff o).mpr ho)))
  · have ho : isOrderCode o = false := (isOrderCode_eq_false_iff o).mpr (by tauto)
    exact issue_of_run (runOps_singleton (txnew_illegal s.block ho))

theorem pushedPar_eq_set (b : Block) (x : Byte) :
    b.pushedPar x = if h : b.pcnt.toNat < 8 then b.par.set b.pcnt.toNat x h else b.par := by
  unfold Block.pushedPar
  split
  case isTrue h => exact Vector.ext fun i hi => by simp [Vector.getElem_setIfInBounds, Vector.getElem_set]
  case isFalse => rfl

/-- Settles O7: the state decides, and where PCNT is below 8 it is the index of the cell written. -/
theorem txparPushesAParameter : Obligations.TxparPushesAParameter := by
  refine ⟨decodeCmd_cmdWord 0x5, fun s x hs => ?_, fun s x hs => ?_⟩
  · exact issue_of_run (runOps_singleton (txpar_seq s.block x hs))
  · rw [← pushedPar_eq_set]
    exact issue_of_run (runOps_singleton (txpar_load s.block x hs))

/-- Settles O8: the state is tested before the count, and the checksum byte is the sum of the eleven before it. -/
theorem txbuildChecksAndBuildsTheFrame : Obligations.TxbuildChecksAndBuildsTheFrame := by
  refine ⟨decodeCmd_cmdWord 0x6, fun s hs => ?_, fun s hs hc => ?_, fun s o p c hs hc ho hp hsum => ?_⟩
  · exact issue_of_run (runOps_singleton (txbuild_seq s.block hs))
  · exact issue_of_run (runOps_singleton (txbuild_ipc s.block hs hc))
  · obtain rfl : c = requestSum o p := BitVec.eq_of_toNat_eq (hsum.trans (requestSum_toNat o p).symm)
    subst ho hp
    exact issue_of_run (runOps_singleton (txbuild_full s.block hs hc))

/-- Settles O9: below 12 TXPTR does not wrap, so it reaches 12 exactly after the twelfth byte. -/
theorem txpopDeliversTheNextByte : Obligations.TxpopDeliversTheNextByte := by
  refine ⟨decodeCmd_cmdWord 0x7, fun s hs => ?_, fun s hp hs => ?_⟩
  · exact issue_of_run (runOps_singleton (txpop_seq s.block hs))
  · have hlast : s.block.txptr.toNat + 1 = 12 ↔ s.block.txptr + 1 = 12 := by constructor <;> intro h <;> bv_omega
    simp only [hlast]
    exact issue_of_run (runOps_singleton (txpop_ready s.block hs hp))

/-! ### The state TXST (spec/41_assembler.md R74, R80) -/

section

variable {w : CmdWord} {b b' : Block} {r : Response}

/-- TXST is left by TXNEW, by TXBUILD in LOAD and by TXPOP in READY, and by no other word. -/
theorem WordOutcome.keeps_txst_unless (h : WordOutcome w b (.ok (r, b'))) (h4 : cmdOp w ≠ 0x4)
    (h6 : cmdOp w = 0x6 → b.txst ≠ .load) (h7 : cmdOp w = 0x7 → b.txst ≠ .ready) : b'.txst = b.txst := by
  cases h
  case txnew h _ | illord h _ => exact absurd h h4
  case txbuild h hs _ | ipc h hs _ => exact absurd hs (h6 h)
  case txpop h hs _ => exact absurd hs (h7 h)
  all_goals rfl

/-- READY is entered by TXBUILD in LOAD with eight parameters. -/
theorem WordOutcome.txbuild_of_enters_ready (h : WordOutcome w b (.ok (r, b'))) (hs : b.txst ≠ .ready)
    (hr : b'.txst = .ready) : cmdOp w = 0x6 ∧ b.txst = .load ∧ b.pcnt = 8 := by
  cases h
  case txbuild h hl hc => exact ⟨h, hl, hc⟩
  case txnew | illord | ipc => cases hr
  case txpop hready _ => exact absurd hready hs
  all_goals exact absurd hr hs

end

/-- Settles O11: every outcome of a word leaves the TXST that the table has for its guard. -/
theorem assemblerTransitionTable : Obligations.AssemblerTransitionTable := by
  refine ⟨fun w s t h => ?_, fun s => rfl⟩
  obtain ⟨r, b, -, ho, rfl⟩ := exec_word_next h
  clear h
  cases ho
  case txnew h ho =>
    rw [decodeCmd_eq h]
    exact (if_pos ((isOrderCode_iff _).mp ho)).symm
  case illord h ho =>
    rw [decodeCmd_eq h]
    exact (if_neg ((isOrderCode_eq_false_iff _).mp ho)).symm
  case txbuild h hs hc =>
    rw [decodeCmd_eq h, hs]
    exact (if_pos hc).symm
  case ipc h hs hc =>
    rw [decodeCmd_eq h, hs]
    exact (if_neg hc).symm
  case txpop h hs hp =>
    have hlast : s.block.txptr + 1 = 12 ↔ s.block.txptr = 11 := by constructor <;> intro h <;> bv_omega
    rw [decodeCmd_eq h, hs]
    exact if_congr hlast rfl rfl
  case txbuildSeq h hs =>
    rw [decodeCmd_eq h]
    cases hst : s.block.txst with
    | load => exact absurd hst hs
    | idle | ready => rfl
  case txpopSeq h hs =>
    rw [decodeCmd_eq h]
    cases hst : s.block.txst with
    | ready => exact absurd hst hs
    | idle | load => rfl
  case illop h => rcases h with h | h <;> rw [decodeCmd_eq h] <;> rfl
  all_goals
    rw [decodeCmd_eq (by assumption)]
    rfl

/-- Settles O12: under the invariant LOAD has a legal order code, and outside READY a TXPOP answers 5. -/
theorem onlyABuiltFrameIsDelivered : Obligations.OnlyABuiltFrameIsDelivered := by
  refine ⟨fun w s t hs h hnot hready => ?_, fun s t h hstat => ?_⟩
  · obtain ⟨r, b, -, ho, rfl⟩ := exec_word_next h
    obtain ⟨-, -, -, hload⟩ := hs
    obtain ⟨hop, hl, hc⟩ := ho.txbuild_of_enters_ready hnot hready
    exact ⟨decodeCmd_eq hop, hl, hc, (isOrderCode_iff _).mp (hload hl)⟩
  · by_contra hs
    cases h.symm.trans (issue_of_run (runOps_singleton (txpop_seq s.block hs)))
    cases hstat

/-! ### The function encodeRequest (spec/41_assembler.md R72, R73) -/

section

variable {o : OrderCode} {p : List Byte}

theorem encodeRequest_of_length_ne (h : p.length ≠ 8) : encodeRequest o p = .error .ipc := if_pos h

theorem encodeRequest_of_length (h : p.length = 8) :
    encodeRequest o p = .ok ([hdr0, hdr1, o.byte] ++ p ++ [checksum ([hdr0, hdr1, o.byte] ++ p)]) :=
  if_neg (not_not.mpr h)

theorem eq_of_encodeRequest_eq_ok {f : List Byte} (h : encodeRequest o p = .ok f) :
    f = [hdr0, hdr1, o.byte] ++ p ++ [checksum ([hdr0, hdr1, o.byte] ++ p)] := by
  by_cases hp : p.length = 8
  · exact Except.ok.inj (h.symm.trans (encodeRequest_of_length hp))
  · cases h.symm.trans (encodeRequest_of_length_ne hp)

end

theorem OrderCode.byte_injective {o o' : OrderCode} (h : o.byte = o'.byte) : o = o' := by
  cases o <;> cases o' <;> cases h <;> rfl

/-- Settles O15: the frame holds the order code and the parameters, and the header adds 84 to their sum. -/
theorem encodeRequestIsInjective : Obligations.EncodeRequestIsInjective := by
  refine ⟨fun o p => encodeRequest_of_length_ne, fun o p hp => ⟨_, encodeRequest_of_length hp, ?_⟩,
    fun o o' p p' f h h' => ?_⟩
  · simp [checksum_toNat, hdr0, hdr1]
    omega
  · have hf := (eq_of_encodeRequest_eq_ok h).symm.trans (eq_of_encodeRequest_eq_ok h')
    obtain ⟨hbyte, hparams, -⟩ : o.byte = o'.byte ∧ p = p' ∧ _ := by simpa using hf
    exact ⟨OrderCode.byte_injective hbyte, hparams⟩

/-! ### The request rows (spec/41_assembler.md R79, spec/44_commands.md R112) -/

/-- Producing and sending a request: ten successes, then the twelve bytes of the frame. -/
theorem issue_frameOps (s : State) (o : OrderCode) (p : Vector Byte 8) :
    s.issue (frameOps o p) =
      .next (s.answered (List.replicate 10 (okResponse 0x00) ++ (requestFrame o.byte p).toList.map okResponse)
        { s.block.withRequest o.byte p with txptr := 12, txst := .idle }) := by
  have hsend := runOps_sendOps (s.block.withRequest o.byte p) rfl rfl
  refine issue_of_run ?_
  rw [frameOps, runOps_append (runOps_requestOps s.block p (isOrderCode_byte o)), hsend]
  rfl

/-- Settles O33: each row issues the operations of a request and of its sending. -/
theorem requestFrameRowsSendTheFrame : Obligations.RequestFrameRowsSendTheFrame := by
  intro s p o i hi
  refine ⟨requestFrame o.byte p, encodeRequest_toList o p, ?_⟩
  simp only [List.mem_cons, List.not_mem_nil, or_false, Prod.mk.injEq] at hi
  rcases hi with ⟨rfl, rfl⟩ | ⟨rfl, rfl⟩ | ⟨rfl, rfl⟩
  exacts [issue_frameOps s .status p, issue_frameOps s .loadConf p, issue_frameOps s .control p]

/-! ### The parameters of a request (spec/41_assembler.md R82, spec/10_state.md R16, R17) -/

/-- The assembler is collecting a request with order code `o`, and `xs` are the parameters pushed so far. -/
def Block.Collects (o : Byte) (xs : List Byte) (b : Block) : Prop :=
  b.txst = .load ∧ b.ord = o ∧ b.pcnt.toNat = min xs.length 9 ∧ ∀ i, i < min xs.length 8 → b.par[i]? = xs[i]?

section

variable {w : CmdWord} {b b' : Block} {r : Response} {o : Byte} {xs : List Byte}

/-- A byte pushed goes to the next cell, or is dropped where eight are held. -/
theorem Block.Collects.push (hb : b.Collects o xs) (x : Byte) :
    Block.Collects o (xs ++ [x]) { b with par := b.pushedPar x, pcnt := saturatedSucc b.pcnt } := by
  obtain ⟨hst, hord, hcnt, hpar⟩ := hb
  refine ⟨hst, hord, ?_, fun i hi => ?_⟩
  · rw [List.length_append, List.length_singleton]
    exact (saturatedSucc_toNat _).trans (by omega)
  rw [List.length_append, List.length_singleton] at hi
  show (b.pushedPar x)[i]? = _
  unfold Block.pushedPar
  split
  case isTrue hroom =>
    have hlen : b.pcnt.toNat = xs.length := by omega
    obtain rfl | hlt : i = xs.length ∨ i < xs.length := by omega
    · simp [hlen, hlen ▸ hroom]
    · rw [Vector.getElem?_setIfInBounds_ne (by omega), List.getElem?_append_left hlt]
      exact hpar i (by omega)
  case isFalse hfull =>
    rw [List.getElem?_append_left (by omega)]
    exact hpar i (by omega)

/-- Every word but TXNEW and TXBUILD goes on collecting, with the byte it pushes. -/
theorem blockOp_keeps_collects (hw : cmdOp w ∉ [0x4, 0x6]) (hb : b.Collects o xs)
    (hop : blockOp w b = .ok (r, b')) : b'.Collects o (xs ++ operandsOf 0x5 [w]) := by
  have ho : WordOutcome w b (.ok (r, b')) := hop ▸ blockOp_cases w b
  obtain ⟨h4, h6⟩ : cmdOp w ≠ 0x4 ∧ cmdOp w ≠ 0x6 := by simpa using hw
  have hst : b.txst = .load := hb.1
  by_cases h5 : cmdOp w = 0x5
  · have hpushed : operandsOf 0x5 [w] = [cmdData w] := by simp [operandsOf, h5]
    cases hop.symm.trans (blockOp_of_outcome (.txpar h5 hst))
    rw [hpushed]
    exact hb.push _
  · have hpushed : operandsOf 0x5 [w] = [] := by simpa [operandsOf] using h5
    have hst' : b'.txst = b.txst := ho.keeps_txst_unless h4 (fun h => absurd h h6) (fun _ => by simp [hst])
    have hord : b'.ord = b.ord := ho.keeps_ord (by simpa using h4)
    have hpcnt : b'.pcnt = b.pcnt := ho.keeps_pcnt (by simpa using ⟨h4, h5⟩)
    have hpar : b'.par = b.par := ho.keeps_par (by simpa using h5)
    rw [hpushed, List.append_nil, Block.Collects, hst', hord, hpcnt, hpar]
    exact hb

theorem Block.Collects.pcnt_eq_eight_iff (hb : b.Collects o xs) : b.pcnt = 8 ↔ xs.length = 8 := by
  obtain ⟨-, -, hcnt, -⟩ := hb
  constructor
  · intro h
    simp [h] at hcnt
    omega
  · intro h
    bv_omega

/-- With eight parameters pushed PAR holds them all. -/
theorem Block.Collects.par_toList (hb : b.Collects o xs) (h : xs.length = 8) : b.par.toList = xs := by
  obtain ⟨-, -, -, hpar⟩ := hb
  refine List.ext_getElem? fun i => ?_
  by_cases hi : i < 8
  · simpa using hpar i (by omega)
  · simp [hi, h]

end

/-- A legal TXNEW, and words without TXNEW and TXBUILD, collect the parameters pushed. -/
theorem runWords_collects {s : State} (o : OrderCode) {ws : List CmdWord} (hs : s.Inv) (hws : Avoids [0x4, 0x6] ws) :
    ∃ rs t, runWords (cmdWord 0x4 o.byte :: ws) s = some (rs, t) ∧ t.Inv ∧
      t.block.Collects o.byte (operandsOf 0x5 ws) := by
  have hnew : WordOutcome (cmdWord 0x4 o.byte) s.block _ :=
    .txnew (cmdOp_cmdWord _ _) (by rw [cmdData_cmdWord, isOrderCode_byte])
  obtain ⟨rs, b, hrun, hinv⟩ := runOps_words_answers ws (hnew.keeps_inv hs)
  obtain ⟨t, ht, rfl, -⟩ := runWords_of_run (ws := cmdWord 0x4 o.byte :: ws) (s := s)
    (by rw [List.map_cons, runOps_cons_ok _ (blockOp_of_outcome hnew), hrun])
  refine ⟨_, t, ht, hinv, runOps_history (fun hist => Block.Collects o.byte (operandsOf 0x5 hist))
    (cmdOp · ∉ [0x4, 0x6])
    (fun hist w b r b' hw hb hop => operandsOf_append _ hist [w] ▸ blockOp_keeps_collects hw hb hop)
    ws hws [] _ rs _ ⟨rfl, cmdData_cmdWord _ _, rfl, nofun⟩ hrun⟩

/-- Settles O13: what the parameters collected say of TXST, ORD, PCNT and PAR. -/
theorem parameterCountSaturates : Obligations.ParameterCountSaturates := by
  intro s o ws hs hws
  obtain ⟨rs, t, hrun, -, hcollects⟩ := runWords_collects o hs hws
  have ⟨hst, hord, hcnt, hpar⟩ := hcollects
  exact ⟨rs, t, hrun, hst, hord, hcnt, hcollects.pcnt_eq_eight_iff, hpar⟩

/-! ### The bytes of a built frame (spec/41_assembler.md R79) -/

/-- The bytes `xs` are what TXPOP has still to deliver; with none left nothing is said. -/
def Block.Delivers (xs : List Byte) (b : Block) : Prop :=
  xs ≠ [] → b.txst = .ready ∧ b.txbuf.toList.drop b.txptr.toNat = xs

section

variable {w : CmdWord} {b b' : Block} {r : Response} {xs : List Byte}

/-- TXPOP answers the first byte to be delivered and leaves the others. -/
theorem Block.Delivers.pop {x : Byte} (hb : b.Delivers (x :: xs)) :
    ∃ b', b.txpop = .ok (okResponse x, b') ∧ b'.Delivers xs := by
  obtain ⟨hs, hdrop⟩ := hb (List.cons_ne_nil _ _)
  have hp : b.txptr.toNat < b.txbuf.toList.length := by
    by_contra hout
    rw [List.drop_of_length_le (by omega)] at hdrop
    cases hdrop
  rw [List.drop_eq_getElem_cons hp] at hdrop
  obtain ⟨hx, hxs⟩ := List.cons.inj hdrop
  rw [Vector.length_toList] at hp
  have hnext : (b.txptr + 1).toNat = b.txptr.toNat + 1 := by bv_omega
  refine ⟨_, (txpop_ready b hs hp).trans (by rw [← hx, Vector.getElem_toList]), fun hne => ?_⟩
  have hlast : b.txptr + 1 ≠ 12 := by
    intro h
    rw [← hnext, h] at hxs
    exact hne (hxs.symm.trans (List.drop_of_length_le (by simp)))
  exact ⟨if_neg hlast, (congrArg (List.drop · _) hnext).trans hxs⟩

/-- In READY every word but TXNEW and TXPOP leaves the bytes to be delivered. -/
theorem WordOutcome.keeps_delivers (h : WordOutcome w b (.ok (r, b'))) (h4 : cmdOp w ≠ 0x4) (h7 : cmdOp w ≠ 0x7)
    (hb : b.Delivers xs) : b'.Delivers xs := by
  intro hne
  obtain ⟨hs, hdrop⟩ := hb hne
  have hst : b'.txst = b.txst := h.keeps_txst_unless h4 (fun _ => by simp [hs]) (fun h => absurd h h7)
  by_cases h6 : cmdOp w = 0x6
  · cases (blockOp_of_outcome h).symm.trans (blockOp_of_outcome (.txbuildSeq h6 (by simp [hs])))
    exact ⟨hs, hdrop⟩
  · rw [hst, h.keeps_txbuf (by simpa using h6), h.keeps_txptr (by simpa using ⟨h6, h7⟩)]
    exact ⟨hs, hdrop⟩

end

/-- A run of one operation and more, taken apart. -/
theorem runOps_cons_eq_ok {op : BlockOp} {ops : List BlockOp} {b b' : Block} {rs : List Response}
    (h : runOps (op :: ops) b = .ok (rs, b')) :
    ∃ r b₁ rs', op b = .ok (r, b₁) ∧ runOps ops b₁ = .ok (rs', b') ∧ rs = r :: rs' := by
  simp only [runOps] at h
  split at h
  · cases h
  · rename_i r b₁ hop
    split at h
    · cases h
    · rename_i rs' b₂ hrun
      cases h
      exact ⟨r, b₁, rs', hop, hrun, rfl⟩

/-- By induction on the words: as long as there are bytes to deliver, the TXPOPs answer them in order. -/
theorem answersTo_txpop_of_delivers {ws : List CmdWord} (hws : Avoids [0x4] ws) {b b' : Block} {xs : List Byte}
    {rs : List Response} (hb : b.Delivers xs) (hlen : (operandsOf 0x7 ws).length ≤ xs.length)
    (h : runOps (ws.map blockOp) b = .ok (rs, b')) :
    answersTo 0x7 ws rs = (xs.take (operandsOf 0x7 ws).length).map okResponse := by
  induction ws generalizing b xs rs with
  | nil =>
    cases h
    rfl
  | cons w ws ih =>
    obtain ⟨hw, hws⟩ := hws.of_cons
    obtain ⟨r, b₁, rs, hop, hrun, rfl⟩ := runOps_cons_eq_ok h
    rw [operandsOf_cons] at hlen ⊢
    rw [answersTo_cons]
    by_cases h7 : cmdOp w = 0x7
    · simp only [if_pos h7, List.singleton_append, List.length_cons] at hlen ⊢
      cases xs with
      | nil => simp at hlen
      | cons x xs =>
        obtain ⟨_, hpop, hb₁⟩ := hb.pop
        rw [blockOp_eq h7] at hop
        cases hop.symm.trans hpop
        rw [ih hws hb₁ (by simpa using hlen) hrun, List.take_succ_cons, List.map_cons]
    · simp only [if_neg h7, List.nil_append] at hlen ⊢
      have ho : WordOutcome w b (.ok (r, b₁)) := hop ▸ blockOp_cases w b
      exact ih hws (ho.keeps_delivers (by simpa using hw) h7 hb) hlen hrun

/-- In IDLE every TXPOP is out of sequence until a TXNEW. -/
theorem answersTo_txpop_of_idle {ws : List CmdWord} (hws : Avoids [0x4] ws) {b b' : Block} {rs : List Response}
    (hb : b.txst = .idle) (h : runOps (ws.map blockOp) b = .ok (rs, b')) :
    ∀ r ∈ answersTo 0x7 ws rs, r = errResponse .seq := by
  have hpairs := runOps_pairs (fun b => b.txst = .idle) (cmdOp · ≠ 0x4)
    (fun w r => cmdOp w = 0x7 → r = errResponse .seq) (fun w b r b' hw hb hop => ?_) ws
    (fun w hw => by simpa using hws w hw) b rs b' hb h
  · intro r hr
    obtain ⟨w, hmem, h7⟩ := exists_of_mem_answersTo hr
    exact hpairs.2 _ hmem h7
  · have ho : WordOutcome w b (.ok (r, b')) := hop ▸ blockOp_cases w b
    refine ⟨(ho.keeps_txst_unless hw (fun _ => by simp [hb]) (fun _ => by simp [hb])).trans hb, fun h7 => ?_⟩
    cases hop.symm.trans (blockOp_of_outcome (.txpopSeq h7 (by simp [hb])))
    rfl

/-- From a state meeting the invariant a run of words completes, and its responses are those of its operations. -/
theorem runWords_completes (ws : List CmdWord) {s : State} (hs : s.Inv) :
    ∃ rs t b, runWords ws s = some (rs, t) ∧ runOps (ws.map blockOp) s.block = .ok (rs, b) := by
  obtain ⟨rs, b, hrun, -⟩ := runOps_words_answers ws hs
  obtain ⟨t, ht, -⟩ := runWords_of_run hrun
  exact ⟨rs, t, b, ht, hrun⟩

/-- Settles O14: the parameters collected decide between the frame and the error, and either outcome of TXBUILD leaves a
block whose TXPOPs are known. -/
theorem assemblerComputesEncodeRequest : Obligations.AssemblerComputesEncodeRequest := by
  intro s o ws d hs hws
  obtain ⟨rs, t, hrun, hinv, hcollects⟩ := runWords_collects o hs hws
  have h6 : cmdOp (cmdWord 0x6 d) = 0x6 := cmdOp_cmdWord _ _
  have ⟨hst, hord, _, _⟩ := hcollects
  by_cases hlen : (operandsOf 0x5 ws).length = 8
  · have ho := WordOutcome.txbuild h6 hst (hcollects.pcnt_eq_eight_iff.mpr hlen)
    have hframe : encodeRequest o (operandsOf 0x5 ws) = .ok (requestFrame t.block.ord t.block.par).toList := by
      rw [← hcollects.par_toList hlen, hord, encodeRequest_toList]
    refine ⟨_, _, runWords_append hrun (runWords_one (blockOp_of_outcome ho)), ho.keeps_inv hinv, ?_⟩
    rw [hframe]
    refine ⟨rfl, List.getLast?_concat, fun vs hvs hpops => ?_⟩
    obtain ⟨qs, u, b, hu, hops⟩ := runWords_completes vs (s := t.answered _ _) (ho.keeps_inv hinv)
    exact ⟨qs, u, hu, answersTo_txpop_of_delivers hvs (fun _ => ⟨rfl, rfl⟩) hpops hops⟩
  · have ho := WordOutcome.ipc h6 hst (hcollects.pcnt_eq_eight_iff.not.mpr hlen)
    refine ⟨_, _, runWords_append hrun (runWords_one (blockOp_of_outcome ho)), ho.keeps_inv hinv, ?_⟩
    rw [encodeRequest_of_length_ne hlen]
    refine ⟨rfl, List.getLast?_concat, fun vs hvs => ?_⟩
    obtain ⟨qs, u, b, hu, hops⟩ := runWords_completes vs (s := t.answered _ _) (ho.keeps_inv hinv)
    exact ⟨qs, u, hu, answersTo_txpop_of_idle hvs rfl hops⟩

end Sys2Proof.Machine

/-!
PROOFS. The parser family (spec/42_parser.md): the five operations, what the checksum gate catches and lets pass, the
response row, and that RXNEW, RXPUSHes, RXDEC, RXP1 and RXP2 compute decodeResponse.
-/

namespace Sys2Proof.Machine

open Sys2Proof

/-! ### The five operations (spec/42_parser.md R87 to R91) -/

/-- Settles O16: the operation code selects RXNEW, which answers from every block. -/
theorem rxnewClearsTheParser : Obligations.RxnewClearsTheParser :=
  ⟨decodeCmd_cmdWord 0x8, fun s => issue_of_run (runOps_singleton (rxnew_ok s.block))⟩

/-- Inside its bounds a vector is set whichever way the bound is checked. -/
theorem setIfInBounds_eq_set {α : Type} {n i : Nat} (v : Vector α n) (x : α) (h : i < n) :
    v.setIfInBounds i x = v.set i x h :=
  Vector.ext fun j hj => by simp [Vector.getElem_setIfInBounds, Vector.getElem_set]

/-- Settles O17: where RXCNT is below 6 it is the index of the cell written. -/
theorem rxpushStoresTheNextByte : Obligations.RxpushStoresTheNextByte := by
  refine ⟨decodeCmd_cmdWord 0x9, fun s x h6 => ?_, fun s x hc => ?_⟩
  · exact issue_of_run (runOps_singleton (rxpush_ovr s.block x h6))
  · rw [← setIfInBounds_eq_set]
    exact issue_of_run (runOps_singleton (rxpush_room s.block x hc))

/-- Settles O18: the length is tested before the checksum, which is the sum of bytes 0 to 4 reduced modulo 256. -/
theorem rxdecValidatesTheFrame : Obligations.RxdecValidatesTheFrame := by
  refine ⟨decodeCmd_cmdWord 0xA, fun s hc => ?_, fun s r c hc hr hsum => ?_⟩
  · exact issue_of_run (runOps_singleton (rxdec_short s.block hc))
  · obtain rfl : c = responseSum r := BitVec.eq_of_toNat_eq (hsum.trans (responseSum_toNat r).symm)
    subst hr
    have hsix : ¬ s.block.rxcnt.toNat < 6 := Nat.not_lt.mpr hc
    split
    case isTrue hs => exact issue_of_run (runOps_singleton (rxdec_valid s.block hsix hs))
    case isFalse hs => exact issue_of_run (runOps_singleton (rxdec_cksum s.block hsix hs))

/-- Settles O19: PV alone decides whether the payload is answered or the read is out of sequence. -/
theorem payloadIsReadOnlyWhenValid : Obligations.PayloadIsReadOnlyWhenValid := by
  refine ⟨fun d => ⟨decodeCmd_cmdWord 0xB d, decodeCmd_cmdWord 0xC d⟩, fun s hv => ⟨?_, ?_⟩, fun s hv => ⟨?_, ?_⟩⟩
  · exact issue_of_run (runOps_singleton (rxp1_valid s.block hv))
  · exact issue_of_run (runOps_singleton (rxp2_valid s.block hv))
  · exact issue_of_run (runOps_singleton (rxp1_seq s.block hv))
  · exact issue_of_run (runOps_singleton (rxp2_seq s.block hv))

/-! ### The function decodeResponse (spec/42_parser.md R83 to R85, R93) -/

theorem decodeResponse_toList_eq_ok_iff (r : Vector Byte 6) (x : Byte × Byte) :
    decodeResponse r.toList = .ok x ↔ responseSum r = r[5] ∧ (r[3], r[4]) = x := by
  rw [decodeResponse_toList]
  split_ifs with hs
  · simp [hs]
  · simp [not_not.mp hs]

theorem decodeResponse_toList_eq_error_iff (r : Vector Byte 6) (e : Cause) :
    decodeResponse r.toList = .error e ↔ responseSum r ≠ r[5] ∧ e = .cksum := by
  rw [decodeResponse_toList]
  split_ifs with hs <;> simp [hs, eq_comm]

/-- Six bytes deliver their bytes 3 and 4 exactly where the sixth is the checksum of the others. -/
theorem decodeResponse_six_eq_ok_iff {b0 b1 b2 b3 b4 c : Byte} :
    decodeResponse [b0, b1, b2, b3, b4, c] = .ok (b3, b4) ↔ checksum [b0, b1, b2, b3, b4] = c :=
  (decodeResponse_toList_eq_ok_iff #v[b0, b1, b2, b3, b4, c] (b3, b4)).trans (and_iff_left rfl)

theorem decodeResponse_of_length_lt {xs : List Byte} (h : xs.length < 6) : decodeResponse xs = .error .short := by
  unfold decodeResponse
  split
  case h_1 => simp at h
  case h_2 => exact if_pos h

/-! ### The response row (spec/42_parser.md R92, R93, spec/44_commands.md R112) -/

theorem exec_rsp (r : Vector Byte 6) (s : State) : exec (.rsp r) s = s.issue (responseOps r) := rfl

section

variable (s : State) {r : Vector Byte 6}

theorem exec_rsp_valid (h : responseSum r = r[5]) :
    exec (.rsp r) s = .next (s.answered (List.replicate 8 (okResponse 0x00)) (s.block.withResponse r)) :=
  (exec_rsp r s).trans (issue_of_run (runOps_responseOps_valid s.block r h))

theorem exec_rsp_cksum (h : responseSum r ≠ r[5]) :
    exec (.rsp r) s =
      .next (s.answered (List.replicate 7 (okResponse 0x00) ++ [errResponse .cksum])
        { s.block with
          rxbuf := r, rxcnt := 6, acc := responseSum r, pv := false, err := setFlag s.block.err .cksum }) :=
  (exec_rsp r s).trans (issue_of_run (runOps_responseOps_cksum s.block r h))

end

/-- Settles O34: the row issues the operations of a response, whose last one makes the test of decodeResponse. -/
theorem responseFrameRowIsDecodeResponse : Obligations.ResponseFrameRowIsDecodeResponse := by
  refine fun s r => ⟨fun x y h => ?_, fun e h => ?_⟩
  · obtain ⟨hs, hxy⟩ := (decodeResponse_toList_eq_ok_iff r _).mp h
    cases hxy
    rw [← hs]
    exact exec_rsp_valid s hs
  · obtain ⟨hs, he⟩ := (decodeResponse_toList_eq_error_iff r e).mp h
    rw [← responseSum_eq_checksum_take]
    exact ⟨he, exec_rsp_cksum s hs⟩

/-- Settles O22: the sixth byte is the checksum of the others, so the frame is accepted whatever the block held. -/
theorem conformantResponseRoundTrips : Obligations.ConformantResponseRoundTrips :=
  ⟨fun _ _ _ => decodeResponse_six_eq_ok_iff.mpr rfl,
    fun s _ _ _ => ⟨_, exec_rsp_valid s rfl, rfl, rfl, rfl, rfl⟩⟩

/-! ### The checksum gate (spec/42_parser.md R94) -/

/-- A byte replaced moves the checksum by the difference. -/
theorem checksum_set_add (bs : List Byte) (i : Nat) (h : i < bs.length) (x : Byte) :
    checksum (bs.set i x) + bs[i] = checksum bs + x := by
  induction bs generalizing i with
  | nil => cases h
  | cons b bs ih =>
    cases i with
    | zero =>
      simp only [List.set_cons_zero, List.getElem_cons_zero, checksum_cons]
      ring
    | succ i =>
      simp only [List.set_cons_succ, List.getElem_cons_succ, checksum_cons]
      rw [add_assoc, ih i (Nat.lt_of_succ_lt_succ h), add_assoc]

/-- One byte altered, among the five summed or the sixth, spoils a good checksum. -/
theorem responseSum_set_ne {r : Vector Byte 6} (hr : responseSum r = r[5]) {i : Nat} (hi : i < 6) {x : Byte}
    (hx : x ≠ r[i]) : responseSum (r.set i x) ≠ (r.set i x)[5] := by
  rw [responseSum_eq_checksum_take] at hr ⊢
  rw [Vector.toList_set, List.take_set]
  intro h
  obtain rfl | h5 : i = 5 ∨ i < 5 := by omega
  · rw [List.set_eq_of_length_le (by simp), hr, Vector.getElem_set_self] at h
    exact hx h.symm
  · have hmove := checksum_set_add (r.toList.take 5) i (by simpa using h5) x
    rw [h, Vector.getElem_set_ne _ _ (by omega), hr, add_right_inj] at hmove
    exact hx (by simpa using hmove.symm)

/-- Settles O23: the gate compares one sum, which one altered byte always moves, and which nothing that keeps its
difference to the sixth byte does. -/
theorem checksumGateCatchesOneByte : Obligations.ChecksumGateCatchesOneByte := by
  refine ⟨fun r r' i hi x hok hne hsame => ?_, fun a0 a1 a2 a3 a4 c b0 b1 b2 b3 b4 d hdiff hok => ?_, by decide,
    by decide, fun a0 a1 a2 a3 a4 b0 b1 b2 b3 b4 c hperm hok => ?_, by decide, by decide,
    fun h0 h1 o a b => decodeResponse_six_eq_ok_iff.mpr rfl, by decide⟩
  · obtain ⟨hr, -⟩ := (decodeResponse_toList_eq_ok_iff r x).mp hok
    have hset : r' = r.set i r'[i] := by
      refine Vector.ext fun j hj => ?_
      rw [Vector.getElem_set]
      split
      case isTrue h => simp [h]
      case isFalse h => exact hsame j hj (Ne.symm h)
    rw [decodeResponse_toList_eq_error_iff, hset]
    exact ⟨responseSum_set_ne hr hi hne, rfl⟩
  · rw [decodeResponse_six_eq_ok_iff] at hok ⊢
    rwa [hok, sub_self, sub_eq_zero] at hdiff
  · rw [decodeResponse_six_eq_ok_iff] at hok ⊢
    rwa [← checksum_perm hperm]

/-! ### The operations compute decodeResponse (spec/42_parser.md R92) -/

section

variable {w : CmdWord} {b b' : Block} {r : Response} {xs : List Byte}

/-- With six bytes received RXBUF holds them all. -/
theorem Block.HoldsReceived.rxbuf_toList (hb : b.HoldsReceived xs) (h : xs.length = 6) : b.rxbuf.toList = xs := by
  obtain ⟨-, hbuf⟩ := hb
  refine List.ext_getElem? fun i => ?_
  by_cases hi : i < 6
  · simpa using hbuf i (by omega)
  · simp [hi, h]

/-- The answer and the block of an RXDEC whose bytes decodeResponse maps to `x`. -/
inductive Judged : Except Cause (Byte × Byte) → Response → Block → Prop
  | accepted {b : Block} {x y : Byte} (hv : b.pv = true) (h1 : b.p1 = x) (h2 : b.p2 = y) :
      Judged (.ok (x, y)) (okResponse 0x00) b
  | refused {b : Block} {e : Cause} (he : e = .short ∨ e = .cksum) (hv : b.pv = false) :
      Judged (.error e) (errResponse e) b

/-- RXDEC judges the bytes received as decodeResponse does. -/
theorem Block.HoldsReceived.rxdec_judges (hb : b.HoldsReceived xs) (hlen : xs.length ≤ 6) :
    ∃ r b', b.rxdec = .ok (r, b') ∧ Judged (decodeResponse xs) r b' := by
  have hcnt : b.rxcnt.toNat = min xs.length 6 := hb.1
  by_cases hc : b.rxcnt.toNat < 6
  · rw [decodeResponse_of_length_lt (by omega)]
    exact ⟨_, _, rxdec_short b hc, .refused (.inl rfl) rfl⟩
  · rw [← hb.rxbuf_toList (by omega)]
    by_cases hs : responseSum b.rxbuf = b.rxbuf[5]
    · rw [(decodeResponse_toList_eq_ok_iff _ _).mpr ⟨hs, rfl⟩]
      exact ⟨_, _, rxdec_valid b hc hs, .accepted rfl rfl rfl⟩
    · rw [(decodeResponse_toList_eq_error_iff _ _).mpr ⟨hs, rfl⟩]
      exact ⟨_, _, rxdec_cksum b hc hs, .refused (.inr rfl) rfl⟩

/-- What RXP1 and RXP2 answer. -/
def Block.payloadAnswers (b : Block) : Response × Response :=
  if b.pv then (okResponse b.p1, okResponse b.p2) else (errResponse .seq, errResponse .seq)

theorem Block.payloadAnswers_of_valid (h : b.pv = true) : b.payloadAnswers = (okResponse b.p1, okResponse b.p2) :=
  if_pos h

theorem Block.payloadAnswers_of_invalid (h : b.pv = false) :
    b.payloadAnswers = (errResponse .seq, errResponse .seq) := by
  simp [Block.payloadAnswers, h]

theorem WordOutcome.rxp1_answer (h : WordOutcome w b (.ok (r, b'))) (hw : cmdOp w = 0xB) :
    r = b.payloadAnswers.1 := by
  cases hv : b.pv with
  | true =>
    cases (blockOp_of_outcome h).symm.trans (blockOp_of_outcome (.rxp1 hw hv))
    rw [Block.payloadAnswers_of_valid hv]
  | false =>
    cases (blockOp_of_outcome h).symm.trans (blockOp_of_outcome (.rxp1Seq hw hv))
    rw [Block.payloadAnswers_of_invalid hv]

theorem WordOutcome.rxp2_answer (h : WordOutcome w b (.ok (r, b'))) (hw : cmdOp w = 0xC) :
    r = b.payloadAnswers.2 := by
  cases hv : b.pv with
  | true =>
    cases (blockOp_of_outcome h).symm.trans (blockOp_of_outcome (.rxp2 hw hv))
    rw [Block.payloadAnswers_of_valid hv]
  | false =>
    cases (blockOp_of_outcome h).symm.trans (blockOp_of_outcome (.rxp2Seq hw hv))
    rw [Block.payloadAnswers_of_invalid hv]

/-- RXNEW and RXDEC alone change what RXP1 and RXP2 answer. -/
theorem WordOutcome.keeps_payloadAnswers (h : WordOutcome w b (.ok (r, b'))) (hw : cmdOp w ∉ [0x8, 0xA]) :
    b'.payloadAnswers = b.payloadAnswers := by
  obtain ⟨h1, h2⟩ := h.keeps_p1_p2 (List.not_mem_of_not_mem_cons hw)
  rw [Block.payloadAnswers, Block.payloadAnswers, h.keeps_pv hw, h1, h2]

/-- Until an RXNEW or RXDEC every RXP1 and every RXP2 answers alike. -/
theorem answersTo_payload {ws : List CmdWord} (hws : Avoids [0x8, 0xA] ws) {rs : List Response}
    (h : runOps (ws.map blockOp) b = .ok (rs, b')) :
    (∀ r ∈ answersTo 0xB ws rs, r = b.payloadAnswers.1) ∧ ∀ r ∈ answersTo 0xC ws rs, r = b.payloadAnswers.2 := by
  have hpairs := runOps_pairs (fun c => c.payloadAnswers = b.payloadAnswers) (cmdOp · ∉ [0x8, 0xA])
    (fun w r => (cmdOp w = 0xB → r = b.payloadAnswers.1) ∧ (cmdOp w = 0xC → r = b.payloadAnswers.2))
    (fun w c r c' hw hc hop => ?_) ws hws b rs b' rfl h
  · refine ⟨fun r hr => ?_, fun r hr => ?_⟩
    · obtain ⟨w, hmem, hw⟩ := exists_of_mem_answersTo hr
      exact (hpairs.2 _ hmem).1 hw
    · obtain ⟨w, hmem, hw⟩ := exists_of_mem_answersTo hr
      exact (hpairs.2 _ hmem).2 hw
  · have ho : WordOutcome w c (.ok (r, c')) := hop ▸ blockOp_cases w c
    rw [← hc]
    exact ⟨ho.keeps_payloadAnswers hw, ho.rxp1_answer, ho.rxp2_answer⟩

end

theorem Avoids.mono {ops ops' : List (BitVec 4)} {ws : List CmdWord} (h : ops ⊆ ops') (hws : Avoids ops' ws) :
    Avoids ops ws :=
  fun w hw hop => hws w hw (h hop)

/-- A run of words from a state meeting the invariant keeps it. -/
theorem runWords_keeps_inv {ws : List CmdWord} {s t : State} {rs : List Response} (hs : s.Inv)
    (h : runWords ws s = some (rs, t)) : t.Inv := by
  obtain ⟨rs', b, hrun, hb⟩ := runOps_words_answers ws hs
  obtain ⟨u, hu, rfl, -⟩ := runWords_of_run hrun
  cases hu.symm.trans h
  exact hb

/-- Settles O20: the bytes received since RXNEW are those pushed, RXDEC judges them as decodeResponse does, and what it
leaves decides every RXP1 and RXP2. -/
theorem parserComputesDecodeResponse : Obligations.ParserComputesDecodeResponse := by
  intro s ws d d' hs hws hlen
  obtain ⟨rs, t, hrun, hholds⟩ := receivedBytesAreHeldInOrder s ws d hs (hws.mono (by simp))
  obtain ⟨r, b, hdec, hjudged⟩ := Block.HoldsReceived.rxdec_judges hholds hlen
  have hop : blockOp (cmdWord 0xA d') t.block = .ok (r, b) := (congrFun (blockOp_cmdWord 0xA d') _).trans hdec
  have hall := runWords_append hrun (runWords_one hop)
  have hinv := runWords_keeps_inv hs hall
  refine ⟨_, _, hall, hinv, fun vs hvs => ?_⟩
  obtain ⟨qs, u, c, hu, hops⟩ := runWords_completes vs hinv
  obtain ⟨h1, h2⟩ := answersTo_payload (b := b) (hvs.mono (by simp)) hops
  refine ⟨qs, u, hu, ?_⟩
  rw [List.getLast?_concat]
  generalize decodeResponse (operandsOf 0x9 ws) = x at hjudged ⊢
  cases hjudged with
  | accepted hv hp1 hp2 =>
    rw [Block.payloadAnswers_of_valid hv, hp1, hp2] at h1 h2
    exact ⟨rfl, h1, h2⟩
  | refused he hv =>
    rw [Block.payloadAnswers_of_invalid hv] at h1 h2
    exact ⟨he, rfl, h1, h2⟩

end Sys2Proof.Machine

/-!
PROOFS. The status family (spec/43_system.md): the flags are read by ERRRD, cleared by ERRCLR, and a reserved operation
code sets one of them.
-/

namespace Sys2Proof.Machine

open Sys2Proof

theorem exec_errrd (s : State) : exec .errrd s = .next (s.answered [okResponse s.block.err] s.block) :=
  issue_of_run (runOps_singleton (errrd_ok s.block))

/-- Settles O26: ERRRD answers ERR as it stands, and the invariant keeps bit 7 of ERR at 0. -/
theorem errrdReadsTheFlags : Obligations.ErrrdReadsTheFlags := by
  refine ⟨decodeCmd_cmdWord 0xD, exec_errrd, fun s t hs h => ?_⟩
  obtain ⟨⟨-, -, -, hbit7⟩, -⟩ := hs
  cases h.symm.trans (exec_errrd s)
  exact hbit7

/-- Settles O27: the operation code selects ERRCLR, which answers from every block. -/
theorem errclrClearsTheFlags : Obligations.ErrclrClearsTheFlags :=
  ⟨decodeCmd_cmdWord 0xE, fun s => issue_of_run (runOps_singleton (errclr_ok s.block))⟩

theorem setFlag_illop (e : Byte) : setFlag e .illop = e ||| 0x40 := rfl

/-- Settles O28: both codes perform the one reserved operation, which sets the flag of ILLOP from every block. -/
theorem reservedCodesRaiseIllop : Obligations.ReservedCodesRaiseIllop := by
  refine ⟨fun d => ⟨decodeCmd_cmdWord 0x0 d, decodeCmd_cmdWord 0xF d⟩, fun s => ?_⟩
  rw [← setFlag_illop]
  have hreserved := issue_of_run (runOps_singleton (reservedOp_ok s.block))
  exact ⟨hreserved, hreserved⟩

end Sys2Proof.Machine

/-!
PROOFS. The commands family (spec/44_commands.md): that a row is the run of its command words, what each pseudo-operation
assembles, and what a transaction returns, writes and leaves behind.
-/

namespace Sys2Proof.Machine

open Sys2Proof

/-! ### A row and the run of its command words (spec/44_commands.md R100, spec/41_assembler.md R81) -/

theorem encodeWords_eq_nil_iff (i : Instr) : encodeWords i = [] ↔ i.wellFormed = false := by
  suffices h : Laws.CommandWords.Statement i from h.2
  cases i with
  | csclr | csadd | csrd | txnew | txpar | txbuild | txpop | rxnew | rxpush | rxdec | rxp1 | rxp2 | errrd | errclr
  | reserved0 | reservedF => exact Laws.CommandWords.of_operation rfl rfl rfl
  | reqStatus | reqLoadconf | reqControl => exact Laws.CommandWords.of_frame rfl rfl
  | rsp r => exact Laws.CommandWords.rsp r
  | qstatus | ctrlCatch => exact Laws.CommandWords.of_request rfl rfl
  | req | loadconfC | loadconfN | ctrlForward | ctrlBack | ctrlLeft | ctrlRight =>
    exact Laws.CommandWords.of_checked rfl

/-- A run of words that completes ends, but for the responses, in the state that issuing their operations gives. -/
theorem runWords_answered {ws : List CmdWord} (hne : ws ≠ []) {s : State} {rs : List Response} {b : Block}
    (h : runOps (ws.map blockOp) s.block = .ok (rs, b)) :
    ∃ t, runWords ws s = some (rs, t) ∧ { t with resp := rs } = s.answered rs b := by
  obtain ⟨⟨block, resp, report, pending, freeCtr⟩, ht, rfl, rfl, rfl, hreport⟩ := runWords_of_run h
  obtain rfl : report = none := hreport hne
  exact ⟨_, ht, rfl⟩

/-- Settles O41: a row issues the operations of its words, and the run of the words completes or stops with theirs. -/
theorem everyRowIsTheRunOfItsWords : Obligations.EveryRowIsTheRunOfItsWords := by
  intro i s hw
  have hne : encodeWords i ≠ [] := (encodeWords_eq_nil_iff i).not.mpr (by simp [hw])
  rw [exec_of_wellFormed s hw]
  obtain ⟨rs, b, hrun, hissue⟩ | ⟨f, hrun, hissue⟩ := issue_cases ((encodeWords i).map blockOp) s
  · obtain ⟨t, ht, heq⟩ := runWords_answered hne hrun
    rw [ht]
    exact hissue.trans (congrArg _ heq.symm)
  · rw [runWords_of_fault hrun]
    exact ⟨f, hissue⟩

/-- Settles O40: such a row has no command words, and executing it is the host's rejection. -/
theorem outOfRangeOperandIssuesNothing : Obligations.OutOfRangeOperandIssuesNothing :=
  fun i s hw => ⟨(encodeWords_eq_nil_iff i).mpr hw, exec_of_illFormed s hw⟩

/-! ### Assembling a request (spec/44_commands.md R100, R101) -/

section

variable (s : State) {o : Byte} (p : Vector Byte 8)

/-- The checksum of a request: the header adds 84 to the order code and the parameters. -/
theorem requestSum_eq_of_toNat {c : Byte}
    (hc : c.toNat = (84 + o.toNat + (p.toList.map BitVec.toNat).sum) % 256) : requestSum o p = c := by
  apply BitVec.eq_of_toNat_eq
  rw [hc, requestSum_toNat, vector8_toList]
  simp
  omega

theorem issue_requestOps_legal {c : Byte} (ho : isOrderCode o = true)
    (hc : c.toNat = (84 + o.toNat + (p.toList.map BitVec.toNat).sum) % 256) :
    s.issue (requestOps o p) = .next (s.assembledRequest o p c) := by
  rw [← requestSum_eq_of_toNat p hc]
  exact issue_of_run (runOps_requestOps s.block p ho)

/-- After an illegal TXNEW every further operation of the request is out of sequence. -/
theorem runOps_requestOps_illegal (b : Block) (ho : isOrderCode o = false) :
    runOps (requestOps o p) b =
      .ok (errResponse .illord :: List.replicate 9 (errResponse .seq),
        { b with txst := .idle, err := setFlag (setFlag b.err .illord) .seq }) := by
  simp [requestOps, runOps, txnew_illegal b ho, txpar_seq, txbuild_seq, List.replicate]

end

/-! ### Operands that are bytes (spec/30_encoding.md R59) -/

theorem issueChecked_bytes (bs : List Byte) (ops : List BlockOp) (s : State) :
    s.issueChecked (bs.map fun x => (x.toNat : Int)) ops = s.issue ops := by
  refine issueChecked_inRange ops s (List.all_eq_true.mpr fun n hn => ?_)
  obtain ⟨x, -, rfl⟩ := List.mem_map.mp hn
  have hx : x.toNat < 256 := x.isLt
  simp
  omega

theorem operandBytes_bytes (p : Vector Byte 8) : operandBytes (p.map fun x => (x.toNat : Int)) = p := by
  simp [operandBytes, operandByte_toNat, vector8_eta]

theorem exec_req_bytes (s : State) (o : Byte) (p : Vector Byte 8) :
    exec (.req o.toNat (p.map fun x => (x.toNat : Int))) s = s.issue (requestOps o p) := by
  show s.issueChecked _ _ = _
  rw [operandByte_toNat, operandBytes_bytes, Vector.toList_map]
  exact issueChecked_bytes (o :: p.toList) _ s

/-- Settles O35: the order code decides between ten successes and ILLORD with nine times SEQ, which set bits 3 and 4. -/
theorem reqAssemblesAnyRequest : Obligations.ReqAssemblesAnyRequest := by
  refine ⟨fun s o c p ho hc => ?_, fun s o p h0 h1 h2 => ?_⟩
  · rw [exec_req_bytes]
    exact issue_requestOps_legal s p ((isOrderCode_iff o).mpr ho) hc
  · have hflags : s.block.err ||| 0x18 = setFlag (setFlag s.block.err .illord) .seq :=
      (BitVec.or_assoc s.block.err 0x08 0x10).symm
    rw [exec_req_bytes, hflags]
    exact issue_of_run (runOps_requestOps_illegal p s.block ((isOrderCode_eq_false_iff o).mpr (by tauto)))

theorem exec_qstatus (s : State) : exec .qstatus s = s.issue (requestOps OrderCode.status.byte layoutStatus) := rfl

/-- Settles O36: QSTATUS issues the operations of that request. -/
theorem qstatusAssemblesTheStatusFrame : Obligations.QstatusAssemblesTheStatusFrame :=
  fun s => (exec_qstatus s).trans (issue_requestOps_legal s layoutStatus rfl (by decide))

theorem exec_loadconfC_byte (s : State) (g : Byte) :
    exec (.loadconfC g.toNat) s = s.issue (requestOps OrderCode.loadConf.byte (layoutLoadconfC g)) := by
  show s.issueChecked _ _ = _
  rw [operandByte_toNat]
  exact issueChecked_bytes [g] _ s

theorem exec_loadconfN_bytes (s : State) (sp bp g : Byte) :
    exec (.loadconfN sp.toNat bp.toNat g.toNat) s =
      s.issue (requestOps OrderCode.loadConf.byte (layoutLoadconfN sp bp g)) := by
  show s.issueChecked _ _ = _
  rw [operandByte_toNat, operandByte_toNat, operandByte_toNat]
  exact issueChecked_bytes [sp, bp, g] _ s

/-- Settles O37: six or four placeholders of 100 stand in the sum, and LOADCONF.N with two more of them has the layout
of LOADCONF.C. -/
theorem loadconfAssemblesItsLayouts : Obligations.LoadconfAssemblesItsLayouts := by
  refine ⟨fun s g c hc => ?_, fun s sp bp g c hc => ?_, fun s g => ?_⟩
  · rw [exec_loadconfC_byte]
    refine issue_requestOps_legal s (layoutLoadconfC g) rfl (hc.trans ?_)
    simp [layoutLoadconfC, placeholder, OrderCode.byte]
    omega
  · rw [exec_loadconfN_bytes]
    refine issue_requestOps_legal s (layoutLoadconfN sp bp g) rfl (hc.trans ?_)
    simp [layoutLoadconfN, placeholder, OrderCode.byte]
    omega
  · exact (exec_loadconfN_bytes s placeholder placeholder g).trans (exec_loadconfC_byte s g).symm

/-! ### The control commands (spec/44_commands.md R105 to R109, R111) -/

theorem operandByte_negated_of_toNat {t n : Byte} (h : n.toNat = 255 - t.toNat) :
    operandByte (negated t.toNat) = n := by
  have ht : t.toNat < 256 := t.isLt
  have hn : negated t.toNat = n.toNat := by
    unfold negated
    omega
  rw [hn, operandByte_toNat]

section

variable (s : State)

theorem exec_ctrlForward_byte (t : Byte) :
    exec (.ctrlForward t.toNat) s = s.issue (requestOps OrderCode.control.byte (layoutForward t.toNat)) :=
  issueChecked_bytes [t] _ s

theorem exec_ctrlBack_byte (t : Byte) :
    exec (.ctrlBack t.toNat) s = s.issue (requestOps OrderCode.control.byte (layoutBack t.toNat)) :=
  issueChecked_bytes [t] _ s

theorem exec_ctrlLeft_byte (t : Byte) :
    exec (.ctrlLeft t.toNat) s = s.issue (requestOps OrderCode.control.byte (layoutLeft t.toNat)) :=
  issueChecked_bytes [t] _ s

theorem exec_ctrlRight_byte (t : Byte) :
    exec (.ctrlRight t.toNat) s = s.issue (requestOps OrderCode.control.byte (layoutRight t.toNat)) :=
  issueChecked_bytes [t] _ s

theorem exec_ctrlCatch : exec .ctrlCatch s = s.issue (requestOps OrderCode.control.byte layoutCatch) := rfl

/-- A control request with a displacement on the first axis. -/
theorem issue_control_first {x c : Byte} (hc : c.toNat = (22 + x.toNat) % 256) :
    s.issue (requestOps OrderCode.control.byte #v[x, 0, 0, 0, 0, 0, 0, 0]) =
      .next (s.assembledRequest 0xC2 #v[x, 0, 0, 0, 0, 0, 0, 0] c) := by
  refine issue_requestOps_legal s _ rfl (hc.trans ?_)
  simp [OrderCode.byte]
  omega

/-- A control request with a displacement on the second axis. -/
theorem issue_control_second {x c : Byte} (hc : c.toNat = (22 + x.toNat) % 256) :
    s.issue (requestOps OrderCode.control.byte #v[0, x, 0, 0, 0, 0, 0, 0]) =
      .next (s.assembledRequest 0xC2 #v[0, x, 0, 0, 0, 0, 0, 0] c) := by
  refine issue_requestOps_legal s _ rfl (hc.trans ?_)
  simp [OrderCode.byte]
  omega

end

/-- Settles O38: header and order code add 22 modulo 256 to the displacement, wherever it stands. -/
theorem controlCommandsAssembleTheirLayouts : Obligations.ControlCommandsAssembleTheirLayouts := by
  refine ⟨fun s t c hc => ⟨?_, ?_⟩, fun s t n c hn hc => ⟨?_, ?_⟩, fun s => ?_⟩
  · rw [exec_ctrlForward_byte, layoutForward, operandByte_toNat]
    exact issue_control_first s hc
  · rw [exec_ctrlLeft_byte, layoutLeft, operandByte_toNat]
    exact issue_control_second s hc
  · rw [exec_ctrlBack_byte, layoutBack, operandByte_negated_of_toNat hn]
    exact issue_control_first s hc
  · rw [exec_ctrlRight_byte, layoutRight, operandByte_negated_of_toNat hn]
    exact issue_control_second s hc
  · exact (exec_ctrlCatch s).trans (issue_requestOps_legal s layoutCatch rfl (by decide))

/-! ### The negative displacement (spec/44_commands.md R111, spec/30_encoding.md R63) -/

theorem operandByte_negated (t : Byte) : operandByte (negated t.toNat) = ~~~t :=
  operandByte_negated_of_toNat BitVec.toNat_not

theorem negated_negated (t : Int) : negated (negated t) = t := by
  unfold negated
  omega

theorem layoutBack_complement (t : Int) : layoutBack (255 - t) = layoutForward t :=
  congrArg (fun n => #v[operandByte n, 0, 0, 0, 0, 0, 0, 0]) (negated_negated t)

theorem layoutRight_complement (t : Int) : layoutRight (255 - t) = layoutLeft t :=
  congrArg (fun n => #v[0, operandByte n, 0, 0, 0, 0, 0, 0]) (negated_negated t)

/-- Settles O39: complementing flips bit 7, which tells the two halves apart, and negating twice is the identity. -/
theorem negativeDisplacementIsComplement : Obligations.NegativeDisplacementIsComplement := by
  have hbit (t : Byte) : (operandByte (negated t.toNat)).getLsbD 7 = !t.getLsbD 7 := by
    simp [operandByte_negated]
  refine ⟨fun t => ⟨operandByte_negated t, fun h => ?_⟩, fun t => ?_, fun s t h0 h255 => ?_⟩
  · have h7 := hbit t
    rw [h] at h7
    simp at h7
  · have hmsb : t.getLsbD 7 = decide (128 ≤ t.toNat) := BitVec.msb_eq_decide t
    rw [hbit, hmsb]
    simp
    omega
  · have halike (ops : List BlockOp) : s.issueChecked [t] ops = s.issueChecked [255 - t] ops := by
      rw [issueChecked_inRange ops s (by simp [operandsInRange, h0, h255]),
        issueChecked_inRange ops s (by simp [operandsInRange, h0, h255])]
    constructor
    · show s.issueChecked [t] _ = s.issueChecked [255 - t] _
      rw [halike, layoutBack_complement]
    · show s.issueChecked [t] _ = s.issueChecked [255 - t] _
      rw [halike, layoutRight_complement]

/-! ### Unknown commands and the board status (spec/44_commands.md R110, R115, R116) -/

theorem readCommand_of_unknown {name : String} (h : name ∉ ["FORWARD", "BACK", "LEFT", "RIGHT", "CATCH"]) :
    readCommand name = none := by
  simp only [List.mem_cons, List.not_mem_nil, or_false, not_or] at h
  obtain ⟨hforward, hback, hleft, hright, hcatch⟩ := h
  simp [readCommand, hforward, hback, hleft, hright, hcatch]

theorem decode_ctrlJump (ops : List AsmOperand) :
    decode (.line ⟨"CTRL.JUMP", ops⟩) = .reject .unknownCommand := by
  have hctrl : unknownMnemonic "CTRL.JUMP" = .unknownCommand := by decide
  simp [decode, decodeLine, hctrl]

/-- Settles O44: the name is read before anything is issued, and the decoder rejects the mnemonic whatever the
operands. -/
theorem unknownCommandWritesNothing : Obligations.UnknownCommandWritesNothing := by
  refine ⟨fun T name t s hname => ?_, fun s ops rest hp => step_of_reject hp (decode_ctrlJump ops)⟩
  rw [moveOrControl, readCommand_of_unknown hname]

theorem boardStatus_of_unknown {a : Byte} (h : a = 0 ∨ 5 ≤ a.toNat) : boardStatus a = .unknownStatus a := by
  have hne : a ≠ 1 ∧ a ≠ 2 ∧ a ≠ 3 ∧ a ≠ 4 := by
    rcases h with rfl | h
    · decide
    · bv_omega
  obtain ⟨h1, h2, h3, h4⟩ := hne
  rw [boardStatus, if_neg h1, if_neg h2, if_neg h3, if_neg h4]

/-- Settles O45: the four known status bytes are read one by one, and the order code sent decides what a payload is. -/
theorem boardStatusIsClassified : Obligations.BoardStatusIsClassified :=
  ⟨rfl, rfl, rfl, rfl, fun _ => boardStatus_of_unknown, fun _ _ => rfl, fun _ _ => ⟨rfl, rfl⟩⟩

/-! ### The phases of a transaction (spec/44_commands.md R112, R113) -/

theorem issueWord_cmdWord {op : BitVec 4} {d : Byte} {s : State} {r : Response} {b : Block}
    (h : opOf op d s.block = .ok (r, b)) : issueWord (cmdWord op d) s = some (r, s.answered [r] b) :=
  issueWord_of_op ((congrFun (blockOp_cmdWord op d) _).trans h)

/-- In LOAD every TXPAR succeeds: together they collect their bytes, and write PAR and PCNT alone. -/
theorem runWords_txpar (p : List Byte) {s : State} {o : Byte} {xs : List Byte} (hs : s.block.Collects o xs) :
    ∃ rs t par pcnt, runWords (p.map (cmdWord 0x5)) s = some (rs, t) ∧
      t.block = { s.block with par := par, pcnt := pcnt } ∧ t.block.Collects o (xs ++ p) := by
  induction p generalizing s xs with
  | nil => exact ⟨[], s, s.block.par, s.block.pcnt, rfl, rfl, by simpa using hs⟩
  | cons x p ih =>
    have ⟨hst, _⟩ := hs
    have hword := issueWord_cmdWord (op := 0x5) (txpar_load s.block x hst)
    obtain ⟨rs, t, par, pcnt, hrun, hblock, hcollects⟩ := ih (s := s.answered _ _) (hs.push x)
    exact ⟨_, t, par, pcnt, runWords_cons.mpr ⟨_, _, rs, hword, hrun, rfl⟩, hblock, by simpa using hcollects⟩

/-- Up to six bytes every RXPUSH succeeds: together they hold their bytes, and write RXBUF and RXCNT alone. -/
theorem runWords_rxpush (r : List Byte) {s : State} {xs : List Byte} (hs : s.block.HoldsReceived xs)
    (hlen : (xs ++ r).length ≤ 6) :
    ∃ rs t rxbuf rxcnt, runWords (r.map (cmdWord 0x9)) s = some (rs, t) ∧
      t.block = { s.block with rxbuf := rxbuf, rxcnt := rxcnt } ∧ t.block.HoldsReceived (xs ++ r) := by
  induction r generalizing s xs with
  | nil => exact ⟨[], s, s.block.rxbuf, s.block.rxcnt, rfl, rfl, by simpa using hs⟩
  | cons x r ih =>
    have hroom : s.block.rxcnt.toNat < 6 := by
      have ⟨hcnt, _⟩ := hs
      simp at hlen
      omega
    have hword := issueWord_cmdWord (op := 0x9) (rxpush_room s.block x hroom)
    obtain ⟨rs, t, rxbuf, rxcnt, hrun, hblock, hholds⟩ :=
      ih (s := s.answered _ _) (hs.push x hroom) (by simpa using hlen)
    exact ⟨_, t, rxbuf, rxcnt, runWords_cons.mpr ⟨_, _, rs, hword, hrun, rfl⟩, hblock, by simpa using hholds⟩

/-- SEND of a whole built frame gives its twelve bytes in order and leaves the assembler idle. -/
theorem send_of_ready {s : State} (h : s.block.txst = .ready) (hp : s.block.txptr = 0) :
    ∃ t, send s = some (s.block.txbuf.toList, t) ∧ t.block = { s.block with txptr := 12, txst := .idle } := by
  have hops : (List.replicate 12 (cmdWord 0x7 0)).map blockOp = sendOps := by
    rw [List.map_replicate, blockOp_cmdWord]
    rfl
  obtain ⟨t, ht, hblock, -⟩ := runWords_of_run (s := s) (hops ▸ runOps_sendOps s.block h hp)
  refine ⟨t, ?_, hblock⟩
  rw [send, ht]
  simp [Function.comp_def, okResponse]

/-- The block after a whole request was assembled and sent. -/
def Block.withSent (b : Block) (o : Byte) (p : Vector Byte 8) : Block :=
  { b.withRequest o p with txptr := 12, txst := .idle }

section

variable (b : Block) (o : Byte) (p : Vector Byte 8)

@[simp] theorem Block.withSent_pcnt : (b.withSent o p).pcnt = 8 := rfl
@[simp] theorem Block.withSent_txst : (b.withSent o p).txst = .idle := rfl
@[simp] theorem Block.withSent_txptr : (b.withSent o p).txptr = 12 := rfl
@[simp] theorem Block.withSent_err : (b.withSent o p).err = b.err := by rw [Block.withSent, Block.withRequest]

theorem Block.withSent_sameParser : b.SameParser (b.withSent o p) where
  rxbuf := by rw [Block.withSent, Block.withRequest]
  rxcnt := by rw [Block.withSent, Block.withRequest]
  p1 := by rw [Block.withSent, Block.withRequest]
  p2 := by rw [Block.withSent, Block.withRequest]
  pv := by rw [Block.withSent, Block.withRequest]

end

theorem txbuild_withRequest {b : Block} {o : Byte} (hs : b.txst = .load) (hc : b.pcnt = 8) (ho : b.ord = o) :
    b.txbuild = .ok (okResponse 0x00, b.withRequest o b.par) := by
  rw [txbuild_full b hs hc, Block.withRequest, ← ho, ← hc]

/-- A request collected with eight parameters is built and sent. -/
theorem txbuild_send_of_collects {s : State} {o : Byte} {xs : List Byte} (hs : s.block.Collects o xs)
    (hlen : xs.length = 8) :
    ∃ t u, issueWord (cmdWord 0x6 0) s = some (okResponse 0x00, t) ∧
      send t = some ((requestFrame o s.block.par).toList, u) ∧ u.block = s.block.withSent o s.block.par := by
  have ⟨hst, hord, _, _⟩ := hs
  have hbuild := issueWord_cmdWord (op := 0x6) (d := 0)
    (txbuild_withRequest hst (hs.pcnt_eq_eight_iff.mpr hlen) hord)
  obtain ⟨u, hsend, hu⟩ := send_of_ready (s := s.answered [_] (s.block.withRequest o s.block.par)) rfl rfl
  exact ⟨_, u, hbuild, hsend, hu⟩

/-- RECV of at most six bytes holds them, whatever was held before. -/
theorem recv_holdsReceived {r : List Byte} (s : State) (hr : r.length ≤ 6) :
    ∃ t rxbuf rxcnt, recv r s = some t ∧
      t.block = { s.block with rxbuf := rxbuf, rxcnt := rxcnt, pv := false } ∧ t.block.HoldsReceived r := by
  have hnew := issueWord_cmdWord (op := 0x8) (d := 0) (rxnew_ok s.block)
  obtain ⟨rs, t, rxbuf, rxcnt, hrun, hblock, hholds⟩ :=
    runWords_rxpush r (s := s.answered [okResponse 0x00] { s.block with rxcnt := 0, pv := false }) (xs := [])
      ⟨rfl, nofun⟩ hr
  refine ⟨t, rxbuf, rxcnt, ?_, hblock, hholds⟩
  rw [recv, runWords_cons.mpr ⟨_, _, rs, hnew, hrun, rfl⟩]

theorem runWords_payload {s : State} (h : s.block.pv = true) :
    runWords [cmdWord 0xB 0, cmdWord 0xC 0] s =
      some ([okResponse s.block.p1, okResponse s.block.p2],
        (s.answered [okResponse s.block.p1] s.block).answered [okResponse s.block.p2] s.block) :=
  runWords_cons.mpr ⟨_, _, _, issueWord_cmdWord (rxp1_valid s.block h),
    runWords_one ((congrFun (blockOp_cmdWord 0xC 0) _).trans (rxp2_valid s.block h)), rfl⟩

/-! ### XACT, by what its phases answer (spec/44_commands.md R113) -/

/-- No success is mistaken for an error. -/
theorem okResponse_stat_ne (d : Byte) (c : Cause) : (okResponse d).stat ≠ c.code := by cases c <;> nofun

theorem errResponse_stat (c : Cause) : (errResponse c).stat = c.code := rfl

section

variable {w r : List Byte} {s s₁ s₂ s₃ : State} {x y : Byte}

theorem xactReceive_of_short (hrecv : recv r s = some s₁)
    (hdec : issueWord (cmdWord 0xA 0) s₁ = some (errResponse .short, s₂)) :
    xactReceive w r s = some ⟨.error (.block .short), some w, s₂⟩ := by
  simp only [xactReceive, hrecv, hdec, errResponse_stat, if_true]

theorem xactReceive_of_cksum (hrecv : recv r s = some s₁)
    (hdec : issueWord (cmdWord 0xA 0) s₁ = some (errResponse .cksum, s₂)) :
    xactReceive w r s = some ⟨.error (.block .cksum), some w, s₂⟩ := by
  have hne : Cause.cksum.code ≠ Cause.short.code := by decide
  simp only [xactReceive, hrecv, hdec, errResponse_stat, hne, if_true, if_false]

theorem xactReceive_of_ok (hrecv : recv r s = some s₁)
    (hdec : issueWord (cmdWord 0xA 0) s₁ = some (okResponse 0x00, s₂))
    (hpay : runWords [cmdWord 0xB 0, cmdWord 0xC 0] s₂ = some ([okResponse x, okResponse y], s₃)) :
    xactReceive w r s = some ⟨.ok x y, some w, s₃⟩ := by
  simp only [xactReceive, hrecv, hdec, hpay, okResponse_stat_ne, if_false]
  rfl

end

section

variable {T : Transport} {o : Byte} {p w r : List Byte} {rs : List Response} {s s₀ s₁ s₂ s₃ : State}
  (hnew : issueWord (cmdWord 0x4 o) s = some (okResponse 0x00, s₀))
  (hload : runWords (p.map (cmdWord 0x5)) s₀ = some (rs, s₁))

include hnew hload

theorem xact_of_ipc (hbuild : issueWord (cmdWord 0x6 0) s₁ = some (errResponse .ipc, s₂)) :
    xact T o p s = some ⟨.error (.block .ipc), none, s₂⟩ := by
  simp only [xact, hnew, hload, hbuild, okResponse_stat_ne, errResponse_stat, if_true, if_false]

variable (hbuild : issueWord (cmdWord 0x6 0) s₁ = some (okResponse 0x00, s₂)) (hsend : send s₂ = some (w, s₃))

include hbuild hsend

theorem xact_of_transportFailure (hT : T.writeOk = false ∨ T.reply = none) :
    xact T o p s = some ⟨.error .transportFailure, some w, s₃⟩ := by
  rcases hT with hT | hT <;>
    simp only [xact, hnew, hload, hbuild, hsend, hT, okResponse_stat_ne, if_true, if_false, ite_self]

theorem xact_of_reply (hwrite : T.writeOk = true) (hreply : T.reply = some r) :
    xact T o p s = xactReceive w r s₃ := by
  simp only [xact, hnew, hload, hbuild, hsend, hwrite, hreply, okResponse_stat_ne, Bool.true_eq_false, if_false]

end

/-! ### What a transaction gives (spec/44_commands.md R113, R114) -/

/-- What the bytes `r` read in a transaction give from a block: the result, and the block left. -/
inductive ReceiveOutcome (r : List Byte) (b : Block) : XactResult → Block → Prop
  | short (rxbuf : Vector Byte 6) (rxcnt : BitVec 3) (hlen : r.length < 6) (hcnt : rxcnt.toNat = r.length) :
      ReceiveOutcome r b (.error (.block .short))
        { b with rxbuf := rxbuf, rxcnt := rxcnt, pv := false, err := setFlag b.err .short }
  | cksum (v : Vector Byte 6) (hr : v.toList = r) (hs : responseSum v ≠ v[5]) :
      ReceiveOutcome r b (.error (.block .cksum))
        { b with rxbuf := v, rxcnt := 6, acc := responseSum v, pv := false, err := setFlag b.err .cksum }
  | ok (v : Vector Byte 6) (hr : v.toList = r) (hs : responseSum v = v[5]) :
      ReceiveOutcome r b (.ok v[3] v[4]) (b.withResponse v)

theorem xactReceive_outcome (w : List Byte) {r : List Byte} (s : State) (hr : r.length ≤ 6) :
    ∃ x t, xactReceive w r s = some ⟨x, some w, t⟩ ∧ ReceiveOutcome r s.block x t.block := by
  obtain ⟨⟨_, _, _, _, _⟩, rxbuf, rxcnt, hrecv, rfl, hholds⟩ := recv_holdsReceived s hr
  have ⟨(hcnt : rxcnt.toNat = min r.length 6), _⟩ := hholds
  by_cases hlen : r.length < 6
  · exact ⟨_, _, xactReceive_of_short hrecv (issueWord_cmdWord (rxdec_short _ (hcnt.trans_lt (by omega)))),
      .short rxbuf rxcnt hlen (by omega)⟩
  · have hbuf : rxbuf.toList = r := hholds.rxbuf_toList (by omega)
    obtain rfl : rxcnt = 6 := BitVec.eq_of_toNat_eq (hcnt.trans (by simp; omega))
    by_cases hs : responseSum rxbuf = rxbuf[5]
    · exact ⟨_, _, xactReceive_of_ok hrecv (issueWord_cmdWord (rxdec_valid _ (by simp) hs)) (runWords_payload rfl),
        .ok rxbuf hbuf hs⟩
    · exact ⟨_, _, xactReceive_of_cksum hrecv (issueWord_cmdWord (rxdec_cksum _ (by simp) hs)),
        .cksum rxbuf hbuf hs⟩

/-- What a transaction gives from a block: the result, the bytes written, and the block left. -/
inductive XactOutcome (T : Transport) (o : OrderCode) (p : List Byte) (b : Block) :
    XactResult → Option (List Byte) → Block → Prop
  | ipc (par : Vector Byte 8) (pcnt : BitVec 4) (hp : p.length ≠ 8) (hcnt : pcnt.toNat ≤ 9) :
      XactOutcome T o p b (.error (.block .ipc)) none
        { b with ord := o.byte, par := par, pcnt := pcnt, txst := .idle, err := setFlag b.err .ipc }
  | transport (v : Vector Byte 8) (hp : v.toList = p) (hT : T.writeOk = false ∨ T.reply = none) :
      XactOutcome T o p b (.error .transportFailure) (some (requestFrame o.byte v).toList) (b.withSent o.byte v)
  | received (v : Vector Byte 8) (hp : v.toList = p) {r : List Byte} (hwrite : T.writeOk = true)
      (hreply : T.reply = some r) {x : XactResult} {b' : Block} (h : ReceiveOutcome r (b.withSent o.byte v) x b') :
      XactOutcome T o p b x (some (requestFrame o.byte v).toList) b'

/-- Everything a transaction with an order code can do, from every state. -/
theorem xact_outcome (T : Transport) (o : OrderCode) (p : List Byte) (s : State)
    (hT : ∀ r, T.reply = some r → r.length ≤ 6) :
    ∃ out, xact T o.byte p s = some out ∧ XactOutcome T o p s.block out.result out.written out.final.block := by
  have hnew := issueWord_cmdWord (op := 0x4) (txnew_legal s.block (isOrderCode_byte o))
  obtain ⟨rs, ⟨_, _, _, _, _⟩, par, pcnt, hload, rfl, hcollects⟩ :=
    runWords_txpar p (s := s.answered [okResponse 0x00] { s.block with ord := o.byte, pcnt := 0, txst := .load })
      (xs := []) ⟨rfl, rfl, rfl, nofun⟩
  by_cases hp : p.length = 8
  · have hpar : par.toList = p := hcollects.par_toList hp
    obtain ⟨t, ⟨_, _, _, _, _⟩, hbuild, hsend, rfl⟩ := txbuild_send_of_collects hcollects hp
    cases hwrite : T.writeOk with
    | false =>
      exact ⟨_, xact_of_transportFailure hnew hload hbuild hsend (.inl hwrite), .transport par hpar (.inl hwrite)⟩
    | true =>
      cases hreply : T.reply with
      | none =>
        exact ⟨_, xact_of_transportFailure hnew hload hbuild hsend (.inr hreply), .transport par hpar (.inr hreply)⟩
      | some r =>
        obtain ⟨x, u, hreceive, hout⟩ := xactReceive_outcome _ _ (hT r hreply)
        exact ⟨_, (xact_of_reply hnew hload hbuild hsend hwrite hreply).trans hreceive,
          .received par hpar hwrite hreply hout⟩
  · have ⟨_, _, (hcnt : pcnt.toNat = min p.length 9), _⟩ := hcollects
    have hne : pcnt ≠ 8 := hcollects.pcnt_eq_eight_iff.not.mpr hp
    exact ⟨_, xact_of_ipc hnew hload (issueWord_cmdWord (txbuild_ipc _ rfl hne)), .ipc par pcnt hp (by omega)⟩

/-- The result of a received response is decodeResponse of its bytes. -/
theorem ReceiveOutcome.decodes {r : List Byte} {b b' : Block} {x : XactResult} (h : ReceiveOutcome r b x b') :
    (∃ y z, decodeResponse r = .ok (y, z) ∧ x = .ok y z) ∨
      ∃ e, decodeResponse r = .error e ∧ x = .error (.block e) := by
  cases h with
  | short _ _ hlen => exact .inr ⟨_, decodeResponse_of_length_lt hlen, rfl⟩
  | cksum v hr hs => exact .inr ⟨_, hr ▸ (decodeResponse_toList_eq_error_iff v _).mpr ⟨hs, rfl⟩, rfl⟩
  | ok v hr hs => exact .inl ⟨_, _, hr ▸ (decodeResponse_toList_eq_ok_iff v _).mpr ⟨hs, rfl⟩, rfl⟩

/-- Settles O42: each outcome of a transaction is what encodeRequest, the transport and decodeResponse say in turn. -/
theorem xactComputesExecute : Obligations.XactComputesExecute := by
  intro T o p s _ hT
  obtain ⟨out, hx, hout⟩ := xact_outcome T o p s hT
  refine ⟨out, hx, ?_⟩
  generalize out.result = x, out.written = w, out.final.block = b' at hout ⊢
  cases hout with
  | ipc _ _ hp =>
    rw [encodeRequest_of_length_ne hp]
    exact ⟨rfl, rfl⟩
  | transport v hp hfail =>
    rw [← hp, encodeRequest_toList]
    refine ⟨rfl, ?_⟩
    rcases hfail with hfail | hfail <;> rw [hfail]
    cases T.writeOk <;> rfl
  | @received v hp r hwrite hreply _ _ hreceive =>
    rw [← hp, encodeRequest_toList, hwrite, hreply]
    refine ⟨rfl, ?_⟩
    obtain ⟨y, z, hdec, rfl⟩ | ⟨e, hdec, rfl⟩ := hreceive.decodes
    · simp only [hdec]
    · simp only [hdec]

/-! ### What a transaction leaves behind (spec/44_commands.md R114) -/

section

variable {b b' : Block} {x : XactResult}

/-- Every clause of the invariant that speaks of LOAD or READY holds in IDLE. -/
theorem Block.inv_of_idle (hst : b.txst = .idle) (hcounters : b.CountersInRange) (hpay : b.PayloadIsValidated) :
    b.Inv :=
  ⟨hcounters, fun h => absurd (hst.symm.trans h) nofun, hpay, fun h => absurd (hst.symm.trans h) nofun⟩

theorem Block.PayloadIsValidated.of_sameParser (hb : b.PayloadIsValidated) (h : b.SameParser b') :
    b'.PayloadIsValidated := by
  unfold Block.PayloadIsValidated
  rwa [← h.pv, ← h.rxcnt, ← h.rxbuf, ← h.p1, ← h.p2]

/-- A sent request leaves the assembler idle and the parser as it was. -/
theorem Block.withSent_inv (o : Byte) (v : Vector Byte 8) (hb : b.Inv) : (b.withSent o v).Inv := by
  obtain ⟨⟨-, -, hcnt, herr⟩, -, hpay, -⟩ := hb
  have hsame := b.withSent_sameParser o v
  refine Block.inv_of_idle (Block.withSent_txst ..) ⟨by simp, by simp, ?_, ?_⟩ (hpay.of_sameParser hsame)
  · rwa [← hsame.rxcnt]
  · rwa [Block.withSent_err]

theorem ReceiveOutcome.keeps_idle {r : List Byte} (h : ReceiveOutcome r b x b') (hst : b.txst = .idle) :
    b'.txst = .idle := by
  cases h <;> exact hst

theorem ReceiveOutcome.keeps_inv {r : List Byte} (h : ReceiveOutcome r b x b') (hst : b.txst = .idle) (hb : b.Inv) :
    b'.Inv := by
  refine Block.inv_of_idle (h.keeps_idle hst) ?_ ?_
  · obtain ⟨⟨hpcnt, hptr, -, herr⟩, -⟩ := hb
    have hflag (c : Cause) : (setFlag b.err c).getLsbD 7 = false := (setFlag_bit7 b.err c).trans herr
    cases h with
    | short _ _ hlen hcnt => exact ⟨hpcnt, hptr, hcnt.trans_le (by omega), hflag _⟩
    | cksum => exact ⟨hpcnt, hptr, by simp, hflag _⟩
    | ok => exact ⟨hpcnt, hptr, by simp [Block.withResponse], herr⟩
  · cases h with
    | short | cksum => exact nofun
    | ok v _ hs => exact fun _ => ⟨rfl, hs.symm, rfl, rfl⟩

end

section

variable {T : Transport} {o : OrderCode} {p : List Byte} {b b' : Block} {x : XactResult} {w : Option (List Byte)}

theorem XactOutcome.leaves_idle (h : XactOutcome T o p b x w b') : b'.txst = .idle := by
  cases h with
  | ipc | transport => rfl
  | received _ _ _ _ h => exact h.keeps_idle rfl

theorem XactOutcome.keeps_inv (h : XactOutcome T o p b x w b') (hb : b.Inv) : b'.Inv := by
  cases h with
  | ipc _ _ _ hpcnt =>
    obtain ⟨⟨-, hptr, hcnt, herr⟩, -, hpay, -⟩ := hb
    exact Block.inv_of_idle rfl ⟨hpcnt, hptr, hcnt, (setFlag_bit7 _ _).trans herr⟩ hpay
  | transport v => exact Block.withSent_inv o.byte v hb
  | received v _ _ _ h => exact h.keeps_inv rfl (Block.withSent_inv o.byte v hb)

end

/-- Settles O43: every outcome of a transaction ends in IDLE, and names the elements it changed. -/
theorem xactLeavesTheBlockReady : Obligations.XactLeavesTheBlockReady := by
  intro T o p s out hs hT hx
  obtain ⟨out', hx', hout⟩ := xact_outcome T o p s hT
  obtain rfl : out = out' := Option.some.inj (hx.symm.trans hx')
  refine ⟨hout.keeps_inv hs, hout.leaves_idle, ?_⟩
  generalize out.result = x, out.written = w, out.final.block = b' at hout ⊢
  cases hout with
  | ipc => exact ⟨rfl, rfl, rfl, rfl, rfl, rfl, rfl⟩
  | transport v =>
    have hsame := s.block.withSent_sameParser o.byte v
    exact ⟨nofun, hsame.rxbuf.symm, hsame.rxcnt.symm, hsame.pv.symm, hsame.p1.symm, hsame.p2.symm,
      Block.withSent_err ..⟩
  | received v _ _ hreply h =>
    rw [← s.block.withSent_err o.byte v]
    cases h with
    | short _ _ hlen hcnt => exact ⟨nofun, rfl, rfl, _, hreply, hlen, hcnt⟩
    | cksum v => exact ⟨nofun, rfl, rfl, rfl, responseSum_eq_checksum_take v⟩
    | ok v _ hsum => exact ⟨rfl, rfl, rfl, rfl, hsum, rfl⟩

end Sys2Proof.Machine

/-!
PROOFS. The errors family (spec/60_exceptions.md): a command word succeeds or raises one cause of its row, the flags are
sticky, and they are never tested.
-/

namespace Sys2Proof.Machine

open Sys2Proof

section

variable {w : CmdWord} {b b' : Block} {r : Response} {c : Cause} {op : BitVec 4}

theorem mem_mayRaise_of_cmdOp (h : cmdOp w = op) (hc : c ∈ mayRaise (instrOf op (cmdData w))) :
    c ∈ mayRaise (decodeCmd w) := by
  rwa [decodeCmd_eq h]

/-- A command word succeeds and sets no flag, or raises one cause of its row of R118; ERRCLR alone clears the flags
(spec/60_exceptions.md R124, R125). -/
theorem WordOutcome.succeeds_or_raises (h : WordOutcome w b (.ok (r, b'))) :
    (r.stat = 0 ∧ (b'.err = b.err ∨ decodeCmd w = .errclr ∧ b'.err = 0x00)) ∨
      ∃ c ∈ mayRaise (decodeCmd w), r = errResponse c ∧ b'.err = setFlag b.err c := by
  cases h
  case errclr h => exact .inl ⟨rfl, .inr ⟨decodeCmd_eq h, rfl⟩⟩
  case illord h _ | txparSeq h _ | ipc h _ _ | txbuildSeq h _ | txpopSeq h _ | ovr h _ | short h _ | cksum h _ _
    | rxp1Seq h _ | rxp2Seq h _ => exact .inr ⟨_, mem_mayRaise_of_cmdOp h (by simp [instrOf, mayRaise]), rfl, rfl⟩
  case illop h =>
    have hmem : .illop ∈ mayRaise (decodeCmd w) := by
      rcases h with h | h <;> exact mem_mayRaise_of_cmdOp h (List.mem_singleton_self _)
    exact .inr ⟨_, hmem, rfl, rfl⟩
  all_goals exact .inl ⟨rfl, .inl rfl⟩

/-- No guard and no answer but that of ERRRD speaks of the flags: with another ERR a word has the same outcome up to ERR
(spec/60_exceptions.md R129). In the case of TXPOP `by exact` keeps the guards back until the block is known. -/
theorem WordOutcome.of_other_err (h : WordOutcome w b (.ok (r, b'))) (hw : decodeCmd w ≠ .errrd) (e : Byte) :
    ∃ e', WordOutcome w { b with err := e } (.ok (r, { b' with err := e' })) := by
  cases h
  case csclr h => exact ⟨_, .csclr h⟩
  case csadd h => exact ⟨_, .csadd h⟩
  case csrd h => exact ⟨_, .csrd h⟩
  case txnew h ho => exact ⟨_, .txnew h ho⟩
  case illord h ho => exact ⟨_, .illord h ho⟩
  case txpar h hs => exact ⟨_, .txpar h hs⟩
  case txparSeq h hs => exact ⟨_, .txparSeq h hs⟩
  case txbuild h hs hc => exact ⟨_, .txbuild h hs hc⟩
  case ipc h hs hc => exact ⟨_, .ipc h hs hc⟩
  case txbuildSeq h hs => exact ⟨_, .txbuildSeq h hs⟩
  case txpop h hs hp => exact ⟨_, .txpop h (by exact hs) (by exact hp)⟩
  case txpopSeq h hs => exact ⟨_, .txpopSeq h hs⟩
  case rxnew h => exact ⟨_, .rxnew h⟩
  case rxpush h hc => exact ⟨_, .rxpush h hc⟩
  case ovr h hc => exact ⟨_, .ovr h hc⟩
  case short h hc => exact ⟨_, .short h hc⟩
  case cksum h hc hs => exact ⟨_, .cksum h hc hs⟩
  case rxdec h hc hs => exact ⟨_, .rxdec h hc hs⟩
  case rxp1 h hv => exact ⟨_, .rxp1 h hv⟩
  case rxp1Seq h hv => exact ⟨_, .rxp1Seq h hv⟩
  case rxp2 h hv => exact ⟨_, .rxp2 h hv⟩
  case rxp2Seq h hv => exact ⟨_, .rxp2Seq h hv⟩
  case errrd h => exact absurd (decodeCmd_eq h) hw
  case errclr h => exact ⟨_, .errclr h⟩
  case illop h => exact ⟨_, .illop h⟩

/-- Setting a flag clears none: flags accumulate by bitwise OR (spec/60_exceptions.md R129). -/
theorem setFlag_keeps_bit {e : Byte} {k : Nat} (c : Cause) (h : e.getLsbD k = true) :
    (setFlag e c).getLsbD k = true := by
  simp [setFlag_getLsbD, h]

theorem Cause.code_range (c : Cause) : 1 ≤ c.code.toNat ∧ c.code.toNat ≤ 7 := by
  cases c <;> decide

end

/-- Settles O29: a word that completes succeeds or raises a cause, and raising sets the bit its code names. -/
theorem errorsAreReportedPrecisely : Obligations.ErrorsAreReportedPrecisely := by
  intro w s t h
  obtain ⟨r, b, -, ho, rfl⟩ := exec_word_next h
  refine ⟨r, rfl, ?_⟩
  obtain hok | ⟨c, hmem, hr, herr⟩ := ho.succeeds_or_raises
  · exact .inl hok
  · obtain ⟨hlow, hhigh⟩ := c.code_range
    refine .inr ⟨c, hmem, hr, hlow, hhigh, fun k => ?_⟩
    rw [State.answered_block, herr, setFlag_getLsbD]

/-- Settles O30: ERR stays, is cleared by ERRCLR or gains a flag; and the outcome of a word on one ERR is its outcome on
any other. -/
theorem flagsAreStickyAndNeverTested : Obligations.FlagsAreStickyAndNeverTested := by
  constructor
  · intro w s t h hw k hk
    obtain ⟨r, b, -, ho, rfl⟩ := exec_word_next h
    rw [State.answered_block]
    obtain ⟨-, hkeep | ⟨hclr, -⟩⟩ | ⟨c, -, -, herr⟩ := ho.succeeds_or_raises
    · rwa [hkeep]
    · exact absurd hclr hw
    · rw [herr]
      exact setFlag_keeps_bit c hk
  · intro w s t e h hw
    obtain ⟨r, b, -, ho, rfl⟩ := exec_word_next h
    obtain ⟨e', ho'⟩ := ho.of_other_err hw e
    exact ⟨_, exec_word_of_op (blockOp_of_outcome ho'), rfl, rfl⟩

end Sys2Proof.Machine

/-!
PROOFS. The reset and hazards family (spec/70_reset_and_hazards.md): the first operation after reset, and what a
host that leaves out RXNEW is answered.
-/

namespace Sys2Proof.Machine

open Sys2Proof

/-! ### The first operation after reset (spec/70_reset_and_hazards.md R136) -/

section

variable {b : Block}

theorem Block.ControlReset.txst_ne_load (hb : b.ControlReset) : b.txst ≠ .load := by simp [hb.txst]

theorem Block.ControlReset.txst_ne_ready (hb : b.ControlReset) : b.txst ≠ .ready := by simp [hb.txst]

theorem Block.ControlReset.csadd_loads_acc (hb : b.ControlReset) (x : Byte) :
    Block.csadd x b = .ok (okResponse 0x00, { b with acc := x }) := by
  rw [csadd_ok, hb.acc, zero_add]

theorem Block.ControlReset.txnew_starts_request (hb : b.ControlReset) {o : Byte} (ho : isOrderCode o = true) :
    Block.txnew o b = .ok (okResponse 0x00, { b with ord := o, txst := .load }) := by
  rw [txnew_legal b ho, hb.pcnt]

theorem Block.ControlReset.rxpush_fills_first_cell (hb : b.ControlReset) (x : Byte) :
    Block.rxpush x b = .ok (okResponse 0x00, { b with rxbuf := b.rxbuf.set 0 x, rxcnt := 1 }) := by
  rw [rxpush_room b x (by simp [hb.rxcnt]), hb.rxcnt, setIfInBounds_eq_set b.rxbuf x (by decide)]
  rfl

theorem Block.ControlReset.rxdec_raises_short (hb : b.ControlReset) :
    b.rxdec = .ok (errResponse .short, { b with err := 0x02 }) := by
  rw [rxdec_short b (by simp [hb.rxcnt]), hb.pv, hb.err]
  rfl

/-- After reset an operation out of sequence sets ERR[4] and no other flag. -/
theorem Block.ControlReset.seq_sets_err4 (hb : b.ControlReset) {op : BlockOp}
    (h : op b = .ok (errResponse .seq, { b with err := setFlag b.err .seq })) :
    op b = .ok (errResponse .seq, { b with err := 0x10 }) := by
  rw [h, hb.err]
  rfl

end

/-- Where the host layer reports nothing, one operation changes the block and the responses alone. -/
theorem issue_of_op_of_report_none {s : State} {op : BlockOp} {r : Response} {b : Block} (hs : s.report = none)
    (h : op s.block = .ok (r, b)) : s.issue [op] = .next { s with block := b, resp := [r] } := by
  rw [issue_of_run (runOps_singleton h), State.answered, hs]

/-- Settles O53: every guard is decided by the control elements, which the reset state and the reset event share. -/
theorem firstOperationAfterReset : Obligations.FirstOperationAfterReset := by
  intro s u hu
  obtain ⟨hb, hresp, hreport⟩ : u.block.ControlReset ∧ u.resp = [] ∧ u.report = none := by
    obtain rfl | rfl := hu
    · exact ⟨State.reset_controlReset, rfl, rfl⟩
    · exact ⟨s.resetBlock_controlReset, rfl, rfl⟩
  have htxpar (x : Byte) := issue_of_op_of_report_none hreport (hb.seq_sets_err4 (txpar_seq u.block x hb.txst_ne_load))
  refine ⟨?_, fun i hi => ?_, fun i hi => ?_, htxpar, ?_, fun x => ?_, fun o => ?_, fun x => ?_⟩
  · rw [State.port, hresp]
    rfl
  · simp only [List.mem_cons, List.not_mem_nil, or_false] at hi
    obtain rfl | rfl := hi
    · exact issue_of_op_of_report_none hreport (hb.acc ▸ csrd_ok u.block)
    · exact issue_of_op_of_report_none hreport (hb.err ▸ errrd_ok u.block)
  · simp only [List.mem_cons, List.not_mem_nil, or_false] at hi
    obtain rfl | rfl | rfl | rfl | rfl := hi
    · exact htxpar 0x00
    · exact issue_of_op_of_report_none hreport (hb.seq_sets_err4 (txbuild_seq u.block hb.txst_ne_load))
    · exact issue_of_op_of_report_none hreport (hb.seq_sets_err4 (txpop_seq u.block hb.txst_ne_ready))
    · exact issue_of_op_of_report_none hreport (hb.seq_sets_err4 (rxp1_seq u.block hb.pv))
    · exact issue_of_op_of_report_none hreport (hb.seq_sets_err4 (rxp2_seq u.block hb.pv))
  · exact issue_of_op_of_report_none hreport hb.rxdec_raises_short
  · exact issue_of_op_of_report_none hreport (hb.rxpush_fills_first_cell x)
  · exact issue_of_op_of_report_none hreport (hb.txnew_starts_request (isOrderCode_byte o))
  · exact issue_of_op_of_report_none hreport (hb.csadd_loads_acc x)

/-! ### A response without RXNEW (spec/70_reset_and_hazards.md R140) -/

/-- With six bytes held every RXPUSH is refused, and together they change ERR alone. -/
theorem runWords_rxpush_full (bs : List Byte) {s : State} (hs : s.block.rxcnt = 6) :
    ∃ t err, runWords (bs.map (cmdWord 0x9)) s = some (List.replicate bs.length (errResponse .ovr), t) ∧
      t.block = { s.block with err := err } := by
  induction bs generalizing s with
  | nil => exact ⟨s, s.block.err, rfl, rfl⟩
  | cons x bs ih =>
    have hword := issueWord_cmdWord (op := 0x9) (rxpush_ovr s.block x hs)
    obtain ⟨t, err, hrun, hblock⟩ :=
      ih (s := s.answered [errResponse .ovr] { s.block with err := setFlag s.block.err .ovr }) hs
    exact ⟨t, err, runWords_cons.mpr ⟨_, _, _, hword, hrun, rfl⟩, hblock⟩

/-- RXDEC validates a validated frame again: of the parser nothing changes. -/
theorem Block.PayloadIsValidated.rxdec_validates_again {b : Block} (hb : b.PayloadIsValidated) (hv : b.pv = true) :
    b.rxdec = .ok (okResponse 0x00, { b with acc := responseSum b.rxbuf }) := by
  obtain ⟨hcnt, hsum, hp1, hp2⟩ := hb hv
  rw [rxdec_valid b (by simp [hcnt]) hsum.symm, ← hp1, ← hp2, ← hv]

/-- Settles O25: the pushed bytes change ERR alone, so the frame RXDEC judges is the one validated before. -/
theorem missingRxnewDeliversAStalePayload : Obligations.MissingRxnewDeliversAStalePayload := by
  intro s bs hs hv
  obtain ⟨-, -, hpay, -⟩ := hs
  obtain ⟨hcnt, -⟩ := hpay hv
  obtain ⟨t, err, hpush, hblock⟩ := runWords_rxpush_full bs hcnt
  have hdec := issueWord_cmdWord (op := 0xA) (d := 0) (s := t)
    (Block.PayloadIsValidated.rxdec_validates_again (by rw [hblock]; exact hpay) (by rw [hblock]; exact hv))
  have hread := runWords_payload (s := t.answered [okResponse 0x00] { t.block with acc := responseSum t.block.rxbuf })
    (by rw [hblock]; exact hv)
  refine ⟨_, _, runWords_append hpush (runWords_cons.mpr ⟨_, _, _, hdec, hread, rfl⟩), ?_⟩
  rw [hblock]
  rfl

end Sys2Proof.Machine
